-- ==== Sys2Proof/Word.lean ====
section
/-! DEFINITION. The element types of the core's buffers (spec/00_scope.md section 5, spec/20_memory.md rule R40). -/

namespace Sys2Proof

/-- A byte, an unsigned integer 0 to 255, bit 0 its least significant bit (00_scope.md section 5). -/
abbrev Byte := BitVec 8

/-- A 16-bit unsigned address field of the Namefile header (30_encoding.md R68). -/
abbrev Addr := BitVec 16

/-- A sample. Inside the core a sample is an integer (20_memory.md R43); the range -32768 to 32767 of an
element of a sample buffer is `sampleInRange`. -/
abbrev Sample := Int

/-- The legal values of a sample, -32768 to 32767 (30_encoding.md R74). -/
def sampleInRange (v : Sample) : Bool := decide (-32768 ≤ v) && decide (v ≤ 32767)

end Sys2Proof
end

