-- ==== Sys2Proof/Machine/Registers.lean ====
section
/-! DEFINITION. The working registers of the units (spec/10_state.md rules R12 to R16, R18), as plain data. -/

namespace Sys2Proof.Machine

/-- Working registers of the block framer FRM (10_state.md R12). -/
structure FrmRegs where
  /-- `FRM.CSUM`, the 8-bit checksum accumulator (R16). -/
  csum : Byte
  /-- `FRM.TYPE`, the block type byte being framed or parsed. -/
  type : Byte
  /-- `FRM.LEN`, the length byte being framed or parsed. -/
  len : Byte
  /-- `FRM.OFF`, read cursor of `decodeBlock`; unbounded, never wraps (R23). -/
  off : Nat
deriving DecidableEq, Repr, Inhabited

/-- Working registers of the tape stream sequencer SEQ (10_state.md R13). -/
structure SeqRegs where
  /-- `SEQ.OFF`, cursor into the tape image: the offset of the next byte not yet consumed. -/
  off : Nat
  /-- `SEQ.HDR`, valid bit. -/
  hdrValid : Bool
  /-- `SEQ.HDR`, the 15 payload bytes of the Namefile block. -/
  hdr : Vector Byte 15
  /-- `SEQ.CODE`, the Data payloads concatenated so far. -/
  code : List Byte
  /-- `SEQ.POS`, index of the next byte of `codeBytes` to be chunked. -/
  pos : Nat
deriving DecidableEq, Repr, Inhabited

/-- Working registers of the modulator MOD (10_state.md R14). -/
structure ModRegs where
  /-- `MOD.SR`, shift register; bit 0 is sent next. -/
  sr : Byte
  /-- `MOD.BITN`, 0 to 8: bits of the current byte already sent. -/
  bitn : Fin 9
deriving DecidableEq, Repr, Inhabited

/-- `classifiedBit` of a CycleRun: 0, 1 or unknown (10_state.md R18). -/
inductive RunBit where
  | unknown
  | zero
  | one
deriving DecidableEq, Repr, Inhabited

/-- A CycleRun (10_state.md R18). -/
structure CycleRun where
  lengthInSamples : Nat
  classifiedBit : RunBit
deriving DecidableEq, Repr, Inhabited

/-- Working registers of the demodulator DEM (10_state.md R15). -/
structure DemRegs where
  /-- `DEM.IDX`, current index into the sample buffer. -/
  idx : Nat
  /-- `DEM.ANCHOR`, start anchor of the reference window. -/
  anchor : Nat
  /-- `DEM.WS`, first index of the reference window. -/
  ws : Nat
  /-- `DEM.WE`, one past the last index of the reference window. -/
  we : Nat
  /-- `DEM.WN`, number of samples in the window. -/
  wn : Nat
  /-- `DEM.WSUM`, signed sum of the window's samples. -/
  wsum : Int
  /-- `DEM.WSPAN`, maximum minus minimum of the window's samples. -/
  wspan : Nat
  /-- `DEM.RUN`, length counter of the high run being scanned. -/
  run : Nat
  /-- `DEM.SKIP`, length counter of the low-run skip. -/
  skip : Nat
  /-- `DEM.RUNS`, every recorded run in order of detection. -/
  runs : List CycleRun
  /-- `DEM.RSUM`, sum of all recorded run lengths. -/
  rsum : Nat
  /-- `DEM.BITS`, the classified bits in order of detection (`true` is bit 1). -/
  bits : List Bool
  /-- `DEM.RESIDUAL`, 0 to 7: bits left over after grouping by 8. -/
  residual : Fin 8
deriving DecidableEq, Repr, Inhabited

/-- The working registers of FRM and SEQ together: what `assemble` and `disassemble`, which use the framer, thread
(10_state.md R10). -/
structure FrmSeq where
  frm : FrmRegs
  seq : SeqRegs
deriving DecidableEq, Repr, Inhabited

/-- The four register-holding units; PIPE has no registers of its own (44_pipeline.md). -/
structure Work where
  frm : FrmRegs
  seq : SeqRegs
  mod : ModRegs
  dem : DemRegs
deriving DecidableEq, Repr, Inhabited

end Sys2Proof.Machine
end

