-- ==== Sys2Proof/Config.lean ====
section
/-! DEFINITION. The configuration record (spec/00_scope.md rules R5 to R9, spec/10_state.md rule R19) and the free values
of the model. -/

namespace Sys2Proof

/-- `PARTIAL_GROUP`: its one legal value is `drop` (00_scope.md R8, 43_fsk_demodulator.md R148). -/
inductive PartialGroup where
  | drop
deriving DecidableEq, Repr

/-- The configuration record, every constant of 00_scope.md R5 and the parameters of R7 and R8 (10_state.md R19): an
input, held constant for the whole of an operation. `legal` is the *legal values* column of R19 with D22's
`FREQ_ZERO > 0`, so that an illegal configuration cannot be built (93_implementation_defined.md U15); `formats` is the one
value of each of the four constants of R5 that R19 does not list: they are literals of the tape and audio formats
(notes/assumptions/16.md). -/
structure Config where
  sampleRate : Nat
  sampleBits : Nat
  channels : Nat
  freqZero : Nat
  freqOne : Nat
  amp : Nat
  gapSeconds : Rat
  leaderByte : Byte
  syncByte : Byte
  leaderLen : Nat
  maxPayload : Nat
  nameLen : Nat
  namefileLen : Nat
  splitLen : Nat
  windowFactor : Nat
  triggerDiv : Nat
  lookahead : Nat
  nfStartAddr : Addr
  nfLoadAddr : Addr
  partialGroup : PartialGroup
  legal : 2400 ≤ sampleRate ∧ 0 < freqZero ∧ freqZero < freqOne ∧ 1 ≤ amp ∧ amp ≤ 32767 ∧
    0 ≤ gapSeconds.num ∧ maxPayload ≤ 255 ∧ 1 ≤ windowFactor ∧ 1 ≤ triggerDiv
  formats : sampleBits = 16 ∧ channels = 1 ∧ nameLen = 8 ∧ namefileLen = 15
deriving DecidableEq, Repr

/-- `GAP_SECONDS` of R5: 1/2. -/
def Config.halfSecond : Rat := { num := 1, den := 2, den_nz := by decide, reduced := by decide }

/-- The *value* column of 00_scope.md R5, for given Namefile addresses (which R7 leaves without a default). -/
def Config.defaultWith (startAddr loadAddr : Addr) : Config where
  sampleRate := 48000
  sampleBits := 16
  channels := 1
  freqZero := 1200
  freqOne := 2400
  amp := 8000
  gapSeconds := Config.halfSecond
  leaderByte := 0x55
  syncByte := 0x3C
  leaderLen := 128
  maxPayload := 255
  nameLen := 8
  namefileLen := 15
  splitLen := 149
  windowFactor := 3
  triggerDiv := 6
  lookahead := 3
  nfStartAddr := startAddr
  nfLoadAddr := loadAddr
  partialGroup := .drop
  legal := by decide
  formats := by decide

/-- `NAMEFILE_LEN` is 15 in every configuration: the width of `SEQ.HDR` (10_state.md R13). -/
theorem Config.namefileLen_eq (cfg : Config) : cfg.namefileLen = 15 := cfg.formats.2.2.2

/-- Free value: `NF_START_ADDR` (00_scope.md R7, OPEN, no default). notes/assumptions/1.md. -/
opaque Config.freeStartAddr : Addr

/-- Free value: `NF_LOAD_ADDR` (00_scope.md R7, OPEN, no default). notes/assumptions/1.md. -/
opaque Config.freeLoadAddr : Addr

/-- Free value: what the working registers hold after the `n`-th failure (93_implementation_defined.md U17: any value).
notes/assumptions/2.md. -/
opaque Config.freeWork : Nat → Machine.Work

/-- Free value: the span `DEM.WSPAN` (0 to 65535, 10_state.md R15) of a reference window of no samples, for the buffer
and the index of the turn. R133 takes the largest and the smallest sample of the window, and with `FREQ_ONE` above
`SAMPLE_RATE`, which R19 allows, the window of R132 has none. notes/assumptions/3.md. -/
opaque Config.freeSpan : List Sample → Nat → BitVec 16

/-- The default configuration: R5's values and, for the two parameters R7 leaves open, free values. -/
def Config.default : Config := Config.defaultWith Config.freeStartAddr Config.freeLoadAddr

end Sys2Proof
end

