-- ==== Sys2Proof/Syntax.lean ====
section
/-! DEFINITION. The instructions: one constructor per row of spec/opcode_table.json (thirteen operations, format `OP`,
and three block types, format `BLK`; spec/30_encoding.md rules R62, R66, R79), and the argument values of a call. -/

namespace Sys2Proof

/-- The instructions of the core. An operation carries its arguments by value, in the source's order (30_encoding.md
R61, R62). A block instruction carries the bytes of its block after the type byte (length, payload, checksum, trailer),
as many of them as the tape image holds (R63). -/
inductive Instr where
  /-- `ENCBLK`, `encodeBlock(type, payload)`, R86. -/
  | encblk (type : Byte) (payload : List Byte)
  /-- `DECBLK`, `decodeBlock(bytes, offset)`, R87. -/
  | decblk (bytes : List Byte) (offset : Nat)
  /-- `ASM`, `assemble(programName, codeBytes)`, R101. -/
  | asm (programName : List Byte) (codeBytes : List Byte)
  /-- `DISASM`, `disassemble(TapeImage)`, R104. -/
  | disasm (image : List Byte)
  /-- `CYCLEN`, `cyclesForBit(bit)`, R115 (`true` is bit 1; U19: a bit is 0 or 1). -/
  | cyclen (bit : Bool)
  /-- `BLDCYC`, `buildCycle(sampleCount)`, R116. -/
  | bldcyc (sampleCount : Nat)
  /-- `ENCBYTE`, `encodeByte(byte)`, R117. -/
  | encbyte (byte : Byte)
  /-- `ENCSTRM`, `encodeStream(bytes)`, R118. -/
  | encstrm (bytes : List Byte)
  /-- `SILENCE`, `silence(durationSeconds)`, R119. -/
  | silence (durationSeconds : Rat)
  /-- `MODUL`, `modulate(part1, part2)`, R120. -/
  | modul (part1 : List Byte) (part2 : List Byte)
  /-- `DEMOD`, `demodulate(SampleBuffer)`, R130. -/
  | demod (samples : List Sample)
  /-- `ENCAUD`, `encodeAudio(TapeImage)`, R155. -/
  | encaud (image : List Byte)
  /-- `DECAUD`, `decodeAudio(SampleBuffer)`, R156. -/
  | decaud (samples : List Sample)
  /-- `NAMEFILE`, block type 0x00, R66, R104. -/
  | namefile (body : List Byte)
  /-- `DATA`, block type 0x01, R66, R104. -/
  | data (body : List Byte)
  /-- `EOF`, block type 0xFF, R66, R104. -/
  | eof (body : List Byte)
deriving DecidableEq, Repr

/-- The kinds of value an operation takes as argument (30_encoding.md R62's signatures). -/
inductive ArgKind where
  | byte
  | bytes
  | nat
  | bit
  | samples
  | duration
deriving DecidableEq, Repr

/-- One argument of an operation call, passed by value (30_encoding.md R61). -/
inductive Arg where
  | byte (b : Byte)
  | bytes (bs : List Byte)
  | nat (n : Nat)
  | bit (b : Bool)
  | samples (S : List Sample)
  | duration (q : Rat)
deriving DecidableEq, Repr

/-- An encoded instruction: format `OP`, a code byte and arguments passed by value, or format `BLK`, the bytes of a
tape block (30_encoding.md R60). -/
inductive Encoded where
  | op (code : Byte) (args : List Arg)
  | blk (bytes : List Byte)
deriving DecidableEq, Repr

end Sys2Proof
end

