-- ==== Sys2Proof/Machine/State.lean ====
section
/-! DEFINITION. The state of the core, the failures (its exceptions), the reasons a step can stop, and the state after
reset (spec/10_state.md, spec/60_exceptions.md, spec/70_reset_and_hazards.md section 1). -/

namespace Sys2Proof.Machine

/-- The six failures, a closed taxonomy (60_exceptions.md R165). A failure does not stop the machine: it is taken, as a
next state (R170). -/
inductive Failure where
  | framingError
  | checksumError
  | payloadTooLargeError
  | missingEndOfFileError
  | noSignalError
  | truncatedInputError
deriving DecidableEq, Repr

/-- Reasons a step stops with a fault. -/
inductive Fault where
  /-- Raised by `step` (through `notDecoded`) when the caller hands an operation arguments that are not of its types
  (30_encoding.md R61 gives operations typed arguments and such a call no meaning). Safe: the model stops. -/
  | illTypedCall (code : Byte)
deriving DecidableEq, Repr

/-- Reasons a step is refused. All but the first are the refusals of 60_exceptions.md R179: inputs to which the spec
gives neither a result nor a failure. -/
inductive Refusal where
  /-- Raised by `exec` for an instruction that has no meaning yet; no arm uses it now. Safe. -/
  | notModelled (mnemonic : String)
  /-- Raised by `disassemble` and `NAMEFILE`: a second Namefile block (R104, U3). Safe. -/
  | secondNamefile
  /-- Raised by `disassemble` and `NAMEFILE`: a Namefile payload that is not 15 bytes (R104, U3). Safe. -/
  | namefileLength
  /-- Raised by `disassemble` and `DATA`: a Data block before any Namefile block (R104, U4). Safe. -/
  | dataBeforeNamefile
  /-- Raised by `disassemble` and `DATA`: a Data block with an empty payload (R104, U5). Safe. -/
  | emptyDataBlock
  /-- Raised by `disassemble` and `EOF`: an EndOfFile block before any Namefile block (R104, U4). Safe. -/
  | eofBeforeNamefile
  /-- Raised by `disassemble` and `EOF`: an EndOfFile block with a payload (R104, U5). Safe. -/
  | eofWithPayload
  /-- Raised by `disassemble`: a block of type 0x02 to 0xFE (R104, U2). Safe. -/
  | reservedBlockType
  /-- Raised by `silence`: a negative duration (R119, U6). Safe. -/
  | negativeDuration
deriving DecidableEq, Repr

/-- A decoded tape block (40_block_framer.md R87). -/
structure TapeBlock where
  blockType : Byte
  payload : List Byte
  checksum : Byte
deriving DecidableEq, Repr

/-- The header record of `disassemble` (41_tape_stream.md R105). -/
structure NamefileHeader where
  programName : List Byte
  fileType : Byte
  asciiFlag : Byte
  gapFlag : Byte
  startAddress : Addr
  loadAddress : Addr
deriving DecidableEq, Repr

/-- What the last ended operation delivered to the caller (30_encoding.md R62's result types). -/
inductive Result where
  /-- No result: none yet, or the last operation failed (60_exceptions.md R170). -/
  | void
  /-- `encodeBlock`, `assemble`. -/
  | bytes (bs : List Byte)
  /-- `decodeBlock`: the block and `bytesConsumed`. -/
  | block (blk : TapeBlock) (bytesConsumed : Nat)
  /-- `disassemble`, `decodeAudio`. -/
  | program (hdr : NamefileHeader) (codeBytes : List Byte)
  /-- `cyclesForBit`. -/
  | sampleCount (n : Nat)
  /-- The sample buffers of the modulator and of `encodeAudio`. -/
  | samples (S : List Sample)
  /-- `demodulate`: the bytes and `residualBits`. -/
  | demodulated (bs : List Byte) (residualBits : Fin 8)
deriving DecidableEq, Repr

/-- What the caller has handed the core: the instruction source of the next step (notes/assumptions/6.md). -/
inductive Request where
  /-- Nothing: the core is at rest between operations. -/
  | idle
  /-- An operation call: a code and arguments passed by value (R61). -/
  | call (code : Byte) (args : List Arg)
  /-- A tape image that the sequencer is walking, one turn of R104's loop a step. DESIGN CHOICE: its turns read SEQ's
  registers as they stand when it is handed over (notes/assumptions/26.md). -/
  | walk (image : List Byte)
deriving DecidableEq, Repr

/-- The state of the core, plain data. -/
structure State where
  /-- The configuration record, an input that nothing writes (10_state.md R19, 70_reset_and_hazards.md R193). -/
  cfg : Config
  /-- The call in hand. -/
  request : Request
  /-- The working registers (10_state.md R12 to R15). -/
  work : Work
  /-- `ERR`, 8 bits (10_state.md R17). -/
  err : Byte
  /-- The `info` that goes to the caller with `ERR` (60_exceptions.md R166, R170). -/
  info : Nat
  /-- The result delivered by the last ended operation. -/
  result : Result
  /-- The MODEL's own field: how many free values have been drawn (notes/assumptions/2.md). -/
  free : Nat
deriving DecidableEq, Repr

/-- The working registers at reset: all zero. DESIGN CHOICE, the spec leaves them unspecified (R192);
notes/assumptions/4.md. -/
def Work.reset : Work where
  frm := { csum := 0, type := 0, len := 0, off := 0 }
  seq := { off := 0, hdrValid := false, hdr := Vector.replicate 15 0, code := [], pos := 0 }
  mod := { sr := 0, bitn := 0 }
  dem := { idx := 0, anchor := 0, ws := 0, we := 0, wn := 0, wsum := 0, wspan := 0, run := 0, skip := 0,
           runs := [], rsum := 0, bits := [], residual := 0 }

/-- The machine right after reset: `ERR` reads 0 (70_reset_and_hazards.md R192), nothing has been asked of the core and
nothing has been delivered, the configuration is the default one (R193). -/
def State.reset : State where
  cfg := Config.default
  request := .idle
  work := Work.reset
  err := 0
  info := 0
  result := .void
  free := 0

end Sys2Proof.Machine
end

