-- ==== Sys2Proof/Machine/Flags.lean ====
section
/-! DEFINITION. The status computations. The core has no condition codes (spec/10_state.md rule R17): its one status is
`ERR`; and the three exact comparisons of the demodulator (spec/43_fsk_demodulator.md rules R133, R134). -/

namespace Sys2Proof.Machine

/-- The code of a failure in `ERR` (60_exceptions.md R166). -/
def Failure.code : Failure → Byte
  | .framingError => 1
  | .checksumError => 2
  | .payloadTooLargeError => 3
  | .missingEndOfFileError => 4
  | .noSignalError => 5
  | .truncatedInputError => 6

/-- `ERR` after an operation that delivered its result (R17, R166). -/
def noFailureCode : Byte := 0

/-- `v > WSUM / WN`, exactly: `v * WN > WSUM` (R134). -/
def aboveMean (d : DemRegs) (v : Sample) : Bool := decide (v * (d.wn : Int) > d.wsum)

/-- Is `v` below `upperTrigger = mean + span / TRIGGER_DIV`, exactly (R130, R134)? -/
def belowTrigger (cfg : Config) (d : DemRegs) (v : Sample) : Bool :=
  decide ((cfg.triggerDiv : Int) * d.wn * v < cfg.triggerDiv * d.wsum + d.wn * d.wspan)

/-- `length < RSUM / K`, exactly: bit 1 for a run shorter than the average of all runs (R134, R144). -/
def shorterThanAverage (k rsum length : Nat) : Bool := decide (length * k < rsum)

end Sys2Proof.Machine
end

