-- ==== Sys2Proof/Machine/Operands.lean ====
section
/-! DEFINITION. Operand forms: derived lengths, byte order and bit order, the program name, the container boundary
(spec/00_scope.md rule R6, spec/20_memory.md rules R41 to R46, spec/30_encoding.md rules R68, R69, R73). -/

namespace Sys2Proof.Machine

/-! ### Derived constants (00_scope.md R6) -/

/-- `LONG_CYCLE = SAMPLE_RATE div FREQ_ZERO`, 40 samples at the default configuration. -/
def longCycle (cfg : Config) : Nat := cfg.sampleRate / cfg.freqZero

/-- `SHORT_CYCLE = SAMPLE_RATE div FREQ_ONE`, 20 samples at the default configuration (also R131's
`shortCycleLength`). -/
def shortCycle (cfg : Config) : Nat := cfg.sampleRate / cfg.freqOne

/-- `W = WINDOW_LEN = WINDOW_FACTOR * SHORT_CYCLE`, 60 samples at the default configuration (R131). -/
def windowLen (cfg : Config) : Nat := cfg.windowFactor * shortCycle cfg

/-- `floor(SAMPLE_RATE * q)` for a non-negative rational `q = num/den`: `(SAMPLE_RATE * num) div den`, exact
(42_fsk_modulator.md R119, 92_eei_decisions.md D10). -/
def durationSamples (cfg : Config) (q : Rat) : Nat := ((cfg.sampleRate : Int) * q.num).toNat / q.den

/-- `GAP_SAMPLES`, 24000 at the default configuration. -/
def gapSamples (cfg : Config) : Nat := durationSamples cfg cfg.gapSeconds

/-- `+AMP` and `-AMP` (30_encoding.md R71). -/
def highSample (cfg : Config) : Sample := cfg.amp

/-- The low level, `-AMP`. -/
def lowSample (cfg : Config) : Sample := -(cfg.amp : Int)

/-! ### Byte order -/

/-- A 16-bit address field, big-endian: `[a[15:8], a[7:0]]` (20_memory.md R41). -/
def addrBytes (a : Addr) : List Byte := [a.extractLsb' 8 8, a.extractLsb' 0 8]

/-- `hi * 256 + lo` (41_tape_stream.md R105). -/
def addrOfBytes (hi lo : Byte) : Addr := BitVec.ofNat 16 (hi.toNat * 256 + lo.toNat)

/-- A sample at the container boundary: 16-bit two's complement, low byte first (20_memory.md R43). The core itself
never performs this conversion. -/
def containerBytes (v : Sample) : List Byte :=
  [(BitVec.ofInt 16 v).extractLsb' 0 8, (BitVec.ofInt 16 v).extractLsb' 8 8]

/-- The sample that two container bytes stand for: `sext_16({hi, lo})` (20_memory.md R43). -/
def sampleOfContainer (lo hi : Byte) : Sample := (hi ++ lo : BitVec 16).toInt

/-- What the core passes to `writeSamples` for a sample buffer (20_memory.md R46): the buffer, `SAMPLE_RATE`,
`SAMPLE_BITS`, `CHANNELS`. -/
def writeSamplesCall (cfg : Config) (S : List Sample) : List Sample × Nat × Nat × Nat :=
  (S, cfg.sampleRate, cfg.sampleBits, cfg.channels)

/-! ### Bit order -/

/-- The byte whose bit `k` is the `k`-th bit of the list (30_encoding.md R73, 43_fsk_demodulator.md R146). -/
def packByte (g : List Bool) : Byte := BitVec.ofNat 8 (g.foldr (fun b n => b.toNat + 2 * n) 0)

/-- The first `n` groups of 8 bits, in encounter order, each as a byte (R145, R146). -/
def packBytes : Nat → List Bool → List Byte
  | 0, _ => []
  | n + 1, bits => packByte (bits.take 8) :: packBytes n (bits.drop 8)

/-! ### The program name -/

/-- Bytes 0x61 to 0x7A map to the byte 0x20 less, others to themselves (30_encoding.md R69). -/
def upperByte (c : Byte) : Byte := if 0x61 ≤ c ∧ c ≤ 0x7A then c - 0x20 else c

/-- `normaliseName` (41_tape_stream.md R100): uppercase, first `NAME_LEN` (8) bytes, padded with spaces. -/
def normaliseName (cfg : Config) (s : List Byte) : List Byte :=
  (s.map upperByte).take cfg.nameLen ++
    List.replicate (cfg.nameLen - ((s.map upperByte).take cfg.nameLen).length) 0x20

/-- `makeNamefile` (41_tape_stream.md R100): BASIC, Binary, Continuous, the two configured addresses. -/
def makeNamefile (cfg : Config) (programName : List Byte) : List Byte :=
  normaliseName cfg programName ++ [0x00] ++ [0x00] ++ [0x01] ++ addrBytes cfg.nfStartAddr ++ addrBytes cfg.nfLoadAddr

/-- `parseNamefile` (41_tape_stream.md R105): the fields at R68's offsets, as R105 writes them, none of them checked. -/
def parseNamefile (h : Vector Byte 15) : NamefileHeader where
  programName := h.toList.take 8
  fileType := h[8]
  asciiFlag := h[9]
  gapFlag := h[10]
  startAddress := addrOfBytes h[11] h[12]
  loadAddress := addrOfBytes h[13] h[14]

end Sys2Proof.Machine
end

