-- ==== Sys2Proof/Machine/Ops.lean ====
section
/-! DEFINITION. The shared operations: reading a buffer, ending an operation with a result, TAKING A FAILURE (the
core's exception entry, spec/60_exceptions.md rule R170; there is no return from one, R171), and the conclusion of an
operation or of one turn of the tape walk. -/

namespace Sys2Proof.Machine

/-- How a piece of pseudocode ends: with a value, by `raise` or by `refuse` (00_scope.md section 6). `ρ` is the unit's
working registers, `α` the value. -/
inductive Res (ρ α : Type) where
  | ok (regs : ρ) (val : α)
  | raise (regs : ρ) (e : Failure) (info : Nat)
  | refuse (why : Refusal)
deriving DecidableEq, Repr

/-- Go on with the registers and the value, unless the piece before raised or refused: a failure propagates unchanged
(R170). -/
def Res.bind {ρ α β : Type} : Res ρ α → (ρ → α → Res ρ β) → Res ρ β
  | .ok r a, k => k r a
  | .raise r e info, _ => .raise r e info
  | .refuse why, _ => .refuse why

/-- The value, with other registers around the unit's and another form of the value. -/
def Res.lift {ρ σ α β : Type} (f : ρ → σ) (g : α → β) : Res ρ α → Res σ β
  | .ok r a => .ok (f r) (g a)
  | .raise r e info => .raise (f r) e info
  | .refuse why => .refuse why

/-- `MemRead(B, base + k, 1)`, where `rest` is the buffer `B` from index `base` on: the bounds check first,
`TruncatedInputError` with the index where it fails (00_scope.md section 6, 20_memory.md R48). -/
def memRead {ρ : Type} (r : ρ) (rest : List Byte) (base k : Nat) : Res ρ Byte :=
  match rest[k]? with
  | some b => .ok r b
  | none => .raise r .truncatedInputError (base + k)

/-- The operation ends with a result: `ERR` is 0, the result is the caller's and the core is ready for the next
operation (10_state.md R17, 20_memory.md R49). -/
def State.deliver (s : State) (w : Work) (r : Result) : State :=
  { s with work := w, err := noFailureCode, info := 0, result := r, request := .idle }

/-- What the working registers hold after a failure: any value (93_implementation_defined.md U17, 92_eei_decisions.md
D27), a free value of Config, but for `FRM.OFF`, whose value 95_test_vectors.md P4 gives (notes/assumptions/2.md). -/
def Work.afterFailure (w : Work) (n : Nat) : Work :=
  { Config.freeWork n with frm := { (Config.freeWork n).frm with off := w.frm.off } }

/-- `raise E(info)`: the operation ends, nothing it produced is delivered, `ERR` takes the code of `E` and `info` goes
to the caller; no mode changes, there is no vector and no handler (60_exceptions.md R170). `w` is the working registers
as the pseudocode left them. -/
def State.takeFailure (s : State) (w : Work) (e : Failure) (info : Nat) : State :=
  { s with work := w.afterFailure s.free, err := e.code, info := info, result := .void, request := .idle,
           free := s.free + 1 }

/-- The working registers with those of FRM and SEQ replaced. -/
def Work.putFrmSeq (w : Work) (u : FrmSeq) : Work := { w with frm := u.frm, seq := u.seq }

/-- The FRM and SEQ registers. -/
def Work.frmSeq (w : Work) : FrmSeq := { frm := w.frm, seq := w.seq }

/-- The end of an operation: a result is delivered, a failure is taken, a refusal is refused. `put` places the unit's
registers among the others and `out` gives the value its result type. -/
def State.conclude {ρ α : Type} (s : State) (put : ρ → Work) (out : α → Result) :
    Res ρ α → Host.Outcome State Fault Refusal
  | .ok r a => .next (s.deliver (put r) (out a))
  | .raise r e info => .next (s.takeFailure (put r) e info)
  | .refuse why => .refused why

/-- The end of one turn of the tape walk: the walk goes on (`none`), or it ends with its result, a failure or a
refusal. -/
def State.concludeTurn (s : State) :
    Res FrmSeq (Option (NamefileHeader × List Byte)) → Host.Outcome State Fault Refusal
  | .ok u none => .next { s with work := s.work.putFrmSeq u }
  | .ok u (some (hdr, code)) => .next (s.deliver (s.work.putFrmSeq u) (.program hdr code))
  | .raise u e info => .next (s.takeFailure (s.work.putFrmSeq u) e info)
  | .refuse why => .refused why

end Sys2Proof.Machine
end

