-- ==== Sys2Proof/Machine/Demodulator.lean ====
section
/-! DEFINITION. The FSK demodulator DEM (spec/43_fsk_demodulator.md): `DEMOD`, in its three phases: run detection,
classification, byte assembly. -/

namespace Sys2Proof.Machine

/-! ### Step 1: the reference window (R132, R133) -/

/-- The largest element of a window (0 for no element, where `windowSpan` does not look). -/
def maxSample : List Sample → Sample
  | [] => 0
  | v :: vs => vs.foldl max v

/-- The smallest element of a window. -/
def minSample : List Sample → Sample
  | [] => 0
  | v :: vs => vs.foldl min v

/-- The span of the window `w` of the turn at index `i` (R133). A window of no samples has none: a free value
(notes/assumptions/3.md). -/
def windowSpan (S : List Sample) (i : Nat) (w : List Sample) : Nat :=
  if w = [] then (Config.freeSpan S i).toNat else (maxSample w - minSample w).toNat

/-- Step 1 of a turn: the window and its sum, count and span (R132, R133). -/
def measureWindow (cfg : Config) (S : List Sample) (d : DemRegs) : DemRegs :=
  let ws := max d.anchor (d.idx - windowLen cfg)
  let we := min (ws + windowLen cfg) S.length
  let w := (S.drop ws).take (we - ws)
  { d with ws := ws, we := we, wn := we - ws, wsum := w.sum, wspan := windowSpan S d.idx w }

/-! ### Steps 2 and 3: the scans (R136, R139) -/

/-- `anyAboveMean` at the front of `rest`: is the current sample or one of its next `LOOKAHEAD` neighbours, as far as
they exist, above the mean (R136)? -/
def anyAboveMean (cfg : Config) (d : DemRegs) (rest : List Sample) : Bool :=
  (rest.take (cfg.lookahead + 1)).any (aboveMean d)

/-- The length of the high-run scan from the front of `rest` (R136). -/
def highRun (cfg : Config) (d : DemRegs) : List Sample → Nat
  | [] => 0
  | v :: r => if anyAboveMean cfg d (v :: r) then highRun cfg d r + 1 else 0

/-- The length of the low-run skip from the front of `rest` (R139): no lookahead. -/
def lowSkip (cfg : Config) (d : DemRegs) : List Sample → Nat
  | [] => 0
  | v :: r => if belowTrigger cfg d v then lowSkip cfg d r + 1 else 0

/-- Step 2: scan the high run and record it if its length is not 0 (R137); a run cut by the end of the buffer raises
`TruncatedInputError` with the index at which the turn began (R138). -/
def scanHigh (cfg : Config) (S : List Sample) (d : DemRegs) : Res DemRegs Unit :=
  let run := highRun cfg d (S.drop d.idx)
  let d' := { d with run := run, idx := d.idx + run }
  if run > 0 then
    if d'.idx = S.length then .raise d' .truncatedInputError d.idx
    else .ok { d' with runs := d'.runs ++ [{ lengthInSamples := run, classifiedBit := .unknown }] } ()
  else .ok d' ()

/-- Step 3: skip the low run; a skip longer than the nominal window resets the anchor (R139, R140). -/
def skipLow (cfg : Config) (S : List Sample) (d : DemRegs) : DemRegs :=
  let skip := lowSkip cfg d (S.drop d.idx)
  { d with skip := skip, idx := d.idx + skip,
           anchor := if skip > windowLen cfg then d.idx + skip else d.anchor }

/-- Forced progress: one sample if neither scan of the turn that began at `start` advanced (R141). -/
def forceProgress (start : Nat) (d : DemRegs) : DemRegs := if d.idx = start then { d with idx := d.idx + 1 } else d

/-- One turn of run detection (R135). -/
def detectTurn (cfg : Config) (S : List Sample) (d : DemRegs) : Res DemRegs Unit :=
  (scanHigh cfg S (measureWindow cfg S d)).bind fun d1 _ => .ok (forceProgress d.idx (skipLow cfg S d1)) ()

/-- Run detection (R135): turns while `DEM.IDX < N`. The first argument bounds the number of turns; every turn advances
the index, so `N` turns always end it (R142). -/
def detectRuns (cfg : Config) (S : List Sample) : Nat → DemRegs → Res DemRegs Unit
  | 0, d => .ok d ()
  | n + 1, d =>
    if d.idx < S.length then (detectTurn cfg S d).bind fun d1 _ => detectRuns cfg S n d1
    else .ok d ()

/-! ### Phase 2: classification (R143, R144) -/

/-- The lengths of the recorded runs. -/
def runLengths (d : DemRegs) : List Nat := d.runs.map CycleRun.lengthInSamples

/-- The classified bit of a run of this length among the runs of `d`. -/
def classifyRun (d : DemRegs) (length : Nat) : Bool := shorterThanAverage d.runs.length (runLengths d).sum length

/-- Classification: no run at all raises `NoSignalError`; otherwise every run gets its bit. -/
def classify (d : DemRegs) : Res DemRegs Unit :=
  if d.runs.length = 0 then .raise d .noSignalError 0
  else
    .ok { d with
          rsum := (runLengths d).sum
          bits := (runLengths d).map (classifyRun d)
          runs := d.runs.map fun r =>
            { r with classifiedBit := if classifyRun d r.lengthInSamples then .one else .zero } } ()

/-! ### Phase 3: byte assembly (R145 to R148) -/

/-- Whole groups of 8 bits become bytes; a final partial group is dropped and counted (`PARTIAL_GROUP = drop`, R148). -/
def assembleBytes (cfg : Config) (d : DemRegs) : Res DemRegs (List Byte × Fin 8) :=
  match cfg.partialGroup with
  | .drop =>
    let residual : Fin 8 := ⟨d.bits.length % 8, Nat.mod_lt _ (by decide)⟩
    .ok { d with residual := residual } (packBytes (d.bits.length / 8) d.bits, residual)

/-- `demodulate(SampleBuffer)` (R130). -/
def demodulate (cfg : Config) (d : DemRegs) (S : List Sample) : Res DemRegs (List Byte × Fin 8) :=
  (detectRuns cfg S S.length { d with idx := 0, anchor := 0, runs := [] }).bind fun d _ =>
  (classify d).bind fun d _ => assembleBytes cfg d

/-- `DEMOD` (R130). -/
def execDemod (samples : List Sample) (s : State) : Host.Outcome State Fault Refusal :=
  s.conclude (fun d => { s.work with dem := d }) (fun r => .demodulated r.1 r.2) (demodulate s.cfg s.work.dem samples)

end Sys2Proof.Machine
end

