-- ==== Sys2Proof/Machine/Framer.lean ====
section
/-! DEFINITION. The block framer FRM (spec/40_block_framer.md): `ENCBLK` and `DECBLK`. -/

namespace Sys2Proof.Machine

/-- Add a byte to the checksum accumulator: 8-bit addition, keeping the low 8 bits (10_state.md R16). -/
def addToChecksum (csum b : Byte) : Byte := csum + b

/-- `checksum(type, payload)` (R85). -/
def checksum (type : Byte) (payload : List Byte) : Byte :=
  payload.foldl addToChecksum (addToChecksum (addToChecksum 0 type) (BitVec.ofNat 8 payload.length))

/-- The bytes of a block (30_encoding.md R63). -/
def blockBytes (cfg : Config) (type : Byte) (payload : List Byte) : List Byte :=
  [cfg.leaderByte, cfg.syncByte, type, BitVec.ofNat 8 payload.length] ++ payload ++
    [checksum type payload, cfg.leaderByte]

/-- `encodeBlock(type, payload)` (R86). -/
def encodeBlock (cfg : Config) (f : FrmRegs) (type : Byte) (payload : List Byte) : Res FrmRegs (List Byte) :=
  if payload.length > cfg.maxPayload then .raise f .payloadTooLargeError payload.length
  else
    .ok { f with type := type, len := BitVec.ofNat 8 payload.length, csum := checksum type payload }
      (blockBytes cfg type payload)

/-- The payload loop of `decodeBlock` (R87): `n` bytes from index `k` of `rest`, each added to `FRM.CSUM`. -/
def readPayload (f : FrmRegs) (rest : List Byte) (base : Nat) : (k n : Nat) → Res FrmRegs (List Byte)
  | _, 0 => .ok f []
  | k, n + 1 =>
    (memRead f rest base k).bind fun f p =>
      (readPayload { f with csum := addToChecksum f.csum p } rest base (k + 1) n).bind fun f ps => .ok f (p :: ps)

/-- `decodeBlock(bytes, offset)` (R87) on `rest`, the buffer from `offset = base` on. The bytes are examined in order,
each with its bounds check first (R172); the trailer must exist and is not compared (R88). -/
def decodeBlockAt (cfg : Config) (f0 : FrmRegs) (base : Nat) (rest : List Byte) : Res FrmRegs (TapeBlock × Nat) :=
  (memRead { f0 with off := base, csum := 0 } rest base 0).bind fun f b0 =>
  if b0 ≠ cfg.leaderByte then .raise f .framingError base else
  (memRead f rest base 1).bind fun f b1 =>
  if b1 ≠ cfg.syncByte then .raise f .framingError (base + 1) else
  (memRead f rest base 2).bind fun f type =>
  (memRead { f with type := type, csum := addToChecksum f.csum type } rest base 3).bind fun f len =>
  (readPayload { f with len := len, csum := addToChecksum f.csum len } rest base 4 len.toNat).bind fun f payload =>
  (memRead f rest base (4 + len.toNat)).bind fun f c =>
  if c ≠ f.csum then .raise f .checksumError (base + 4 + len.toNat) else
  (memRead f rest base (5 + len.toNat)).bind fun f _ =>
  .ok { f with off := base + 6 + len.toNat }
    ({ blockType := type, payload := payload, checksum := c }, 6 + len.toNat)

/-- `decodeBlock(bytes, offset)` (R87). -/
def decodeBlock (cfg : Config) (f : FrmRegs) (bytes : List Byte) (offset : Nat) : Res FrmRegs (TapeBlock × Nat) :=
  decodeBlockAt cfg f offset (bytes.drop offset)

/-- `ENCBLK` (R86). -/
def execEncblk (type : Byte) (payload : List Byte) (s : State) : Host.Outcome State Fault Refusal :=
  s.conclude (fun f => { s.work with frm := f }) .bytes (encodeBlock s.cfg s.work.frm type payload)

/-- `DECBLK` (R87). -/
def execDecblk (bytes : List Byte) (offset : Nat) (s : State) : Host.Outcome State Fault Refusal :=
  s.conclude (fun f => { s.work with frm := f }) (fun r => .block r.1 r.2) (decodeBlock s.cfg s.work.frm bytes offset)

end Sys2Proof.Machine
end

