-- ==== Sys2Proof/Machine/Modulator.lean ====
section
/-! DEFINITION. The FSK modulator MOD (spec/42_fsk_modulator.md): `CYCLEN`, `BLDCYC`, `ENCBYTE`, `ENCSTRM`, `SILENCE`,
`MODUL`. It raises no failure. -/

namespace Sys2Proof.Machine

/-- `cyclesForBit(bit)` (R115). -/
def cyclesForBit (cfg : Config) (bit : Bool) : Nat := if bit then shortCycle cfg else longCycle cfg

/-- `buildCycle(sampleCount)` (R116): the extra sample of an odd count is high. -/
def buildCycle (cfg : Config) (sampleCount : Nat) : List Sample :=
  List.replicate (sampleCount - sampleCount / 2) (highSample cfg) ++ List.replicate (sampleCount / 2) (lowSample cfg)

/-- The loop of `encodeByte` (R117) with `n` bits still to send: bit 0 of `MOD.SR`, then shift right by one. -/
def sendBits (cfg : Config) : Nat → ModRegs → ModRegs × List Sample
  | 0, m => (m, [])
  | n + 1, m =>
    let r := sendBits cfg n { sr := m.sr >>> 1, bitn := m.bitn + 1 }
    (r.1, buildCycle cfg (cyclesForBit cfg (m.sr.getLsbD 0)) ++ r.2)

/-- `encodeByte(byte)` (R117). -/
def encodeByte (cfg : Config) (byte : Byte) : ModRegs × List Sample := sendBits cfg 8 { sr := byte, bitn := 0 }

/-- `encodeStream(bytes)` (R118). -/
def encodeStream (cfg : Config) : ModRegs → List Byte → ModRegs × List Sample
  | m, [] => (m, [])
  | _, b :: bs =>
    let r := encodeStream cfg (encodeByte cfg b).1 bs
    (r.1, (encodeByte cfg b).2 ++ r.2)

/-- The samples of `silence(durationSeconds)` for a non-negative duration (R119). -/
def silenceSamples (cfg : Config) (q : Rat) : List Sample := List.replicate (durationSamples cfg q) 0

/-- `modulate(part1, part2)` (R120). -/
def modulate (cfg : Config) (m : ModRegs) (part1 part2 : List Byte) : ModRegs × List Sample :=
  let r1 := encodeStream cfg m part1
  let r2 := encodeStream cfg r1.1 part2
  (r2.1, r1.2 ++ silenceSamples cfg cfg.gapSeconds ++ r2.2)

/-- A modulator operation always delivers its samples. -/
def State.deliverSamples (s : State) (r : ModRegs × List Sample) : Host.Outcome State Fault Refusal :=
  .next (s.deliver { s.work with mod := r.1 } (.samples r.2))

/-- `CYCLEN` (R115). -/
def execCyclen (bit : Bool) (s : State) : Host.Outcome State Fault Refusal :=
  .next (s.deliver s.work (.sampleCount (cyclesForBit s.cfg bit)))

/-- `BLDCYC` (R116). -/
def execBldcyc (sampleCount : Nat) (s : State) : Host.Outcome State Fault Refusal :=
  .next (s.deliver s.work (.samples (buildCycle s.cfg sampleCount)))

/-- `ENCBYTE` (R117). -/
def execEncbyte (byte : Byte) (s : State) : Host.Outcome State Fault Refusal :=
  s.deliverSamples (encodeByte s.cfg byte)

/-- `ENCSTRM` (R118). -/
def execEncstrm (bytes : List Byte) (s : State) : Host.Outcome State Fault Refusal :=
  s.deliverSamples (encodeStream s.cfg s.work.mod bytes)

/-- `SILENCE` (R119): a negative duration is refused (93_implementation_defined.md U6). -/
def execSilence (durationSeconds : Rat) (s : State) : Host.Outcome State Fault Refusal :=
  if durationSeconds.num < 0 then .refused .negativeDuration
  else .next (s.deliver s.work (.samples (silenceSamples s.cfg durationSeconds)))

/-- `MODUL` (R120). -/
def execModul (part1 part2 : List Byte) (s : State) : Host.Outcome State Fault Refusal :=
  s.deliverSamples (modulate s.cfg s.work.mod part1 part2)

end Sys2Proof.Machine
end

