-- ==== Sys2Proof/Machine/Sequencer.lean ====
section
/-! DEFINITION. The tape stream sequencer SEQ (spec/41_tape_stream.md): `ASM`, `DISASM` and the three block types
`NAMEFILE`, `DATA`, `EOF`, which are one turn of the loop of `disassemble`. -/

namespace Sys2Proof.Machine

/-! ### assemble -/

/-- `encodeBlock` used by SEQ (10_state.md R10). -/
def seqEncodeBlock (cfg : Config) (u : FrmSeq) (type : Byte) (payload : List Byte) : Res FrmSeq (List Byte) :=
  (encodeBlock cfg u.frm type payload).lift (fun f => { u with frm := f }) id

/-- The chunking loop of `assemble` (R101): `rest` is `codeBytes` from `SEQ.POS` on, and the first argument bounds the
number of turns (one byte at least is taken in each). -/
def appendData (cfg : Config) : Nat → FrmSeq → List Byte → Res FrmSeq (List Byte)
  | 0, u, _ => .ok u []
  | n + 1, u, rest =>
    if rest = [] then .ok u []
    else
      (seqEncodeBlock cfg u 0x01 (rest.take cfg.maxPayload)).bind fun u b =>
        (appendData cfg n { u with seq := { u.seq with pos := u.seq.pos + (rest.take cfg.maxPayload).length } }
          (rest.drop cfg.maxPayload)).bind fun u bs => .ok u (b ++ bs)

/-- `assemble(programName, codeBytes)` (R101, R102). -/
def assemble (cfg : Config) (u : FrmSeq) (programName codeBytes : List Byte) : Res FrmSeq (List Byte) :=
  (seqEncodeBlock cfg u 0x00 (makeNamefile cfg programName)).bind fun u nf =>
  (appendData cfg codeBytes.length { u with seq := { u.seq with pos := 0 } } codeBytes).bind fun u data =>
  (seqEncodeBlock cfg u 0xFF []).bind fun u eof =>
  .ok u (List.replicate cfg.leaderLen cfg.leaderByte ++ nf ++ List.replicate cfg.leaderLen cfg.leaderByte ++ data ++ eof)

/-! ### disassemble -/

/-- The dispatch of R104 on the type of a decoded block: `none` when the walk goes on, the result at an EndOfFile
block. -/
def interpretBlock (cfg : Config) (u : FrmSeq) (blk : TapeBlock) : Res FrmSeq (Option (NamefileHeader × List Byte)) :=
  if blk.blockType = 0x00 then
    if u.seq.hdrValid then .refuse .secondNamefile
    else if h : blk.payload.length = cfg.namefileLen then
      let hdr : Vector Byte 15 := ⟨blk.payload.toArray, h.trans cfg.namefileLen_eq⟩
      .ok { u with seq := { u.seq with hdr := hdr, hdrValid := true } } none
    else .refuse .namefileLength
  else if blk.blockType = 0x01 then
    if u.seq.hdrValid = false then .refuse .dataBeforeNamefile
    else if blk.payload.length = 0 then .refuse .emptyDataBlock
    else .ok { u with seq := { u.seq with code := u.seq.code ++ blk.payload } } none
  else if blk.blockType = 0xFF then
    if u.seq.hdrValid = false then .refuse .eofBeforeNamefile
    else if blk.payload.length ≠ 0 then .refuse .eofWithPayload
    else .ok u (some (parseNamefile u.seq.hdr, u.seq.code))
  else .refuse .reservedBlockType

/-- One block of the walk (R104): `decodeBlock` at `SEQ.OFF`, its failures unchanged; the cursor moves past the block;
the type is interpreted. `rest` is the tape image from `SEQ.OFF` on. -/
def walkBlock (cfg : Config) (u : FrmSeq) (rest : List Byte) : Res FrmSeq (Option (NamefileHeader × List Byte)) :=
  ((decodeBlockAt cfg u.frm u.seq.off rest).lift (fun f => { u with frm := f }) id).bind fun u r =>
    interpretBlock cfg { u with seq := { u.seq with off := u.seq.off + r.2 } } r.1

/-- One turn of the loop of `disassemble` (R103, R104): the end of the image, a byte out of frame, a block, or a leader
byte. `rest` is the tape image from `SEQ.OFF` on. -/
def walkTurn (cfg : Config) (u : FrmSeq) (rest : List Byte) : Res FrmSeq (Option (NamefileHeader × List Byte)) :=
  match rest with
  | [] => .raise u .missingEndOfFileError u.seq.off
  | b0 :: r =>
    if b0 ≠ cfg.leaderByte then .raise u .framingError u.seq.off
    else if r.head? = some cfg.syncByte then walkBlock cfg u rest
    else .ok { u with seq := { u.seq with off := u.seq.off + 1 } } none

/-- The loop of `disassemble` (R104). The first argument bounds the number of turns; every turn that goes on moves the
cursor by at least 1, so `len(T) + 1` turns always end it and the bound is never what ends it. -/
def walkLoop (cfg : Config) (image : List Byte) : Nat → FrmSeq → Res FrmSeq (NamefileHeader × List Byte)
  | 0, u => .raise u .missingEndOfFileError u.seq.off
  | n + 1, u =>
    match walkTurn cfg u (image.drop u.seq.off) with
    | .ok u' none => walkLoop cfg image n u'
    | .ok u' (some r) => .ok u' r
    | .raise u' e info => .raise u' e info
    | .refuse why => .refuse why

/-- The registers as `disassemble` sets them before anything is read (70_reset_and_hazards.md R191). -/
def FrmSeq.startWalk (u : FrmSeq) : FrmSeq :=
  { u with seq := { u.seq with off := 0, hdrValid := false, code := [] } }

/-- `disassemble(TapeImage)` (R104). -/
def disassemble (cfg : Config) (u : FrmSeq) (image : List Byte) : Res FrmSeq (NamefileHeader × List Byte) :=
  walkLoop cfg image (image.length + 1) u.startWalk

/-! ### The meanings -/

/-- `ASM` (R101). -/
def execAsm (programName codeBytes : List Byte) (s : State) : Host.Outcome State Fault Refusal :=
  s.conclude s.work.putFrmSeq .bytes (assemble s.cfg s.work.frmSeq programName codeBytes)

/-- `DISASM` (R104). -/
def execDisasm (image : List Byte) (s : State) : Host.Outcome State Fault Refusal :=
  s.conclude s.work.putFrmSeq (fun r => .program r.1 r.2) (disassemble s.cfg s.work.frmSeq image)

/-- One block instruction of the walk: the block of type `type` with the bytes `body` after its type byte stands at
`SEQ.OFF` (R104). It reads SEQ's registers as they stand; nothing initialises them when a walk is handed over
(notes/assumptions/26.md, DESIGN CHOICE). -/
def execBlock (type : Byte) (body : List Byte) (s : State) : Host.Outcome State Fault Refusal :=
  s.concludeTurn (walkBlock s.cfg s.work.frmSeq (s.cfg.leaderByte :: s.cfg.syncByte :: type :: body))

/-- `NAMEFILE` (R104, block type 0x00). -/
def execNamefile (body : List Byte) (s : State) : Host.Outcome State Fault Refusal := execBlock 0x00 body s

/-- `DATA` (R104, block type 0x01). -/
def execData (body : List Byte) (s : State) : Host.Outcome State Fault Refusal := execBlock 0x01 body s

/-- `EOF` (R104, block type 0xFF). -/
def execEof (body : List Byte) (s : State) : Host.Outcome State Fault Refusal := execBlock 0xFF body s

end Sys2Proof.Machine
end

