-- ==== Sys2Proof/Machine/Pipeline.lean ====
section
/-! DEFINITION. The pipeline glue PIPE (spec/44_pipeline.md): `ENCAUD`, `DECAUD`. It has no registers of its own. -/

namespace Sys2Proof.Machine

/-- `encodeAudio(TapeImage)` (R155): the split by byte count only, clipped to the buffer. -/
def encodeAudio (cfg : Config) (m : ModRegs) (image : List Byte) : ModRegs × List Sample :=
  let cut := min cfg.splitLen image.length
  modulate cfg m (image.take cut) (image.drop cut)

/-- `decodeAudio(SampleBuffer)` (R156): `disassemble` of the demodulated bytes; `residualBits` is discarded. -/
def decodeAudio (cfg : Config) (w : Work) (S : List Sample) : Res Work (NamefileHeader × List Byte) :=
  ((demodulate cfg w.dem S).lift (fun d => { w with dem := d }) id).bind fun w r =>
    (disassemble cfg w.frmSeq r.1).lift w.putFrmSeq id

/-- `ENCAUD` (R155). -/
def execEncaud (image : List Byte) (s : State) : Host.Outcome State Fault Refusal :=
  s.deliverSamples (encodeAudio s.cfg s.work.mod image)

/-- `DECAUD` (R156). -/
def execDecaud (samples : List Sample) (s : State) : Host.Outcome State Fault Refusal :=
  s.conclude id (fun r => .program r.1 r.2) (decodeAudio s.cfg s.work samples)

end Sys2Proof.Machine
end

