-- ==== Sys2Proof/Machine/Dispatch.lean ====
section
/-! DEFINITION. One arm per instruction, each a call of its meaning. -/

namespace Sys2Proof.Machine

def exec (i : Instr) (s : State) : Host.Outcome State Fault Refusal :=
  match i with
  | .encblk type payload => Sys2Proof.Machine.execEncblk type payload s
  | .decblk bytes offset => Sys2Proof.Machine.execDecblk bytes offset s
  | .asm programName codeBytes => Sys2Proof.Machine.execAsm programName codeBytes s
  | .disasm image => Sys2Proof.Machine.execDisasm image s
  | .cyclen bit => Sys2Proof.Machine.execCyclen bit s
  | .bldcyc sampleCount => Sys2Proof.Machine.execBldcyc sampleCount s
  | .encbyte byte => Sys2Proof.Machine.execEncbyte byte s
  | .encstrm bytes => Sys2Proof.Machine.execEncstrm bytes s
  | .silence durationSeconds => Sys2Proof.Machine.execSilence durationSeconds s
  | .modul part1 part2 => Sys2Proof.Machine.execModul part1 part2 s
  | .demod samples => Sys2Proof.Machine.execDemod samples s
  | .encaud image => Sys2Proof.Machine.execEncaud image s
  | .decaud samples => Sys2Proof.Machine.execDecaud samples s
  | .namefile body => Sys2Proof.Machine.execNamefile body s
  | .data body => Sys2Proof.Machine.execData body s
  | .eof body => Sys2Proof.Machine.execEof body s

end Sys2Proof.Machine
end

