-- ==== Sys2Proof/WellFormed.lean ====
section
/-! DEFINITION. Which terms of `Instr` are instructions: sample buffers hold 16-bit samples, and the bytes a block
instruction carries are bytes of that one block. -/

namespace Sys2Proof

/-- Every element of a sample buffer is a signed 16-bit sample (20_memory.md R40, 30_encoding.md R74). -/
def samplesInRange (S : List Sample) : Bool := S.all sampleInRange

/-- The body of a block (the bytes after its type byte) is at most its length byte, that many payload bytes, the
checksum and the trailer (30_encoding.md R63, R64); it is shorter where the tape image ends inside the block. -/
def bodyFits : List Byte → Bool
  | [] => true
  | len :: rest => decide (rest.length ≤ len.toNat + 2)

/-- Well-formedness of an instruction. -/
def Instr.wf : Instr → Bool
  | .encblk _ _ => true
  | .decblk _ _ => true
  | .asm _ _ => true
  | .disasm _ => true
  | .cyclen _ => true
  | .bldcyc _ => true
  | .encbyte _ => true
  | .encstrm _ => true
  | .silence _ => true
  | .modul _ _ => true
  | .demod S => samplesInRange S
  | .encaud _ => true
  | .decaud S => samplesInRange S
  | .namefile body => bodyFits body
  | .data body => bodyFits body
  | .eof body => bodyFits body

end Sys2Proof
end

