-- ==== Sys2Proof/Decode.lean ====
section
/-! DEFINITION. The decoder of both formats, total and rejecting by name, and after it the encoder
(spec/30_encoding.md rules R61 to R67, R78, R79; spec/opcode_table.json). -/

namespace Sys2Proof

/-- Why something is not an instruction. -/
inductive DecodeError where
  /-- An operation code not in R62: "a model's decoder returns invalid" (R78, 93_implementation_defined.md U16). -/
  | invalidCode (code : Byte)
  /-- The arguments are not of the operation's types (R61: "named functions with typed arguments"). -/
  | illTyped (code : Byte)
  /-- Byte 0 of a block is not the lead-in byte (R78). -/
  | badLeadIn
  /-- Byte 1 of a block is not the sync byte (R78). -/
  | badSync
  /-- The bytes end before the type byte. -/
  | cutShort
  /-- A block type 0x02 to 0xFE (R67). -/
  | reservedType (type : Byte)
deriving DecidableEq, Repr

/-! ### Format `OP` -/

/-- The argument kinds of the operation with this code, `none` for a code not in R62. -/
def signature (code : Byte) : Option (List ArgKind) :=
  if code = 0x01 then some [.byte, .bytes]
  else if code = 0x02 then some [.bytes, .nat]
  else if code = 0x03 then some [.bytes, .bytes]
  else if code = 0x04 then some [.bytes]
  else if code = 0x10 then some [.bit]
  else if code = 0x11 then some [.nat]
  else if code = 0x12 then some [.byte]
  else if code = 0x13 then some [.bytes]
  else if code = 0x14 then some [.duration]
  else if code = 0x15 then some [.bytes, .bytes]
  else if code = 0x20 then some [.samples]
  else if code = 0x30 then some [.bytes]
  else if code = 0x31 then some [.samples]
  else none

/-- The operation that a code and its arguments select (R62). The code is looked at first. -/
def decodeOp (code : Byte) (args : List Arg) : Except DecodeError Instr :=
  if code = 0x01 then
    match args with
    | [.byte t, .bytes p] => .ok (.encblk t p)
    | _ => .error (.illTyped code)
  else if code = 0x02 then
    match args with
    | [.bytes b, .nat o] => .ok (.decblk b o)
    | _ => .error (.illTyped code)
  else if code = 0x03 then
    match args with
    | [.bytes n, .bytes c] => .ok (.asm n c)
    | _ => .error (.illTyped code)
  else if code = 0x04 then
    match args with
    | [.bytes t] => .ok (.disasm t)
    | _ => .error (.illTyped code)
  else if code = 0x10 then
    match args with
    | [.bit b] => .ok (.cyclen b)
    | _ => .error (.illTyped code)
  else if code = 0x11 then
    match args with
    | [.nat n] => .ok (.bldcyc n)
    | _ => .error (.illTyped code)
  else if code = 0x12 then
    match args with
    | [.byte b] => .ok (.encbyte b)
    | _ => .error (.illTyped code)
  else if code = 0x13 then
    match args with
    | [.bytes b] => .ok (.encstrm b)
    | _ => .error (.illTyped code)
  else if code = 0x14 then
    match args with
    | [.duration q] => .ok (.silence q)
    | _ => .error (.illTyped code)
  else if code = 0x15 then
    match args with
    | [.bytes p, .bytes q] => .ok (.modul p q)
    | _ => .error (.illTyped code)
  else if code = 0x20 then
    match args with
    | [.samples S] => if samplesInRange S then .ok (.demod S) else .error (.illTyped code)
    | _ => .error (.illTyped code)
  else if code = 0x30 then
    match args with
    | [.bytes t] => .ok (.encaud t)
    | _ => .error (.illTyped code)
  else if code = 0x31 then
    match args with
    | [.samples S] => if samplesInRange S then .ok (.decaud S) else .error (.illTyped code)
    | _ => .error (.illTyped code)
  else .error (.invalidCode code)

/-! ### Format `BLK` -/

/-- Cut the bytes after a type byte to the extent of the block: the length byte says how many payload bytes, then the
checksum and the trailer (R64: a reader learns the length from the byte at offset 3 and from nothing else). -/
def blockBody : List Byte → List Byte
  | [] => []
  | len :: rest => len :: rest.take (len.toNat + 2)

/-- The block instruction that stands at the front of a byte sequence (R63, R66). -/
def decodeBlk (cfg : Config) : List Byte → Except DecodeError Instr
  | [] => .error .cutShort
  | b0 :: r0 =>
    if b0 = cfg.leaderByte then
      match r0 with
      | [] => .error .cutShort
      | b1 :: r1 =>
        if b1 = cfg.syncByte then
          match r1 with
          | [] => .error .cutShort
          | ty :: r2 =>
            if ty = 0x00 then .ok (.namefile (blockBody r2))
            else if ty = 0x01 then .ok (.data (blockBody r2))
            else if ty = 0xFF then .ok (.eof (blockBody r2))
            else .error (.reservedType ty)
        else .error .badSync
    else .error .badLeadIn

/-- The decoder of both formats. -/
def decode (cfg : Config) : Encoded → Except DecodeError Instr
  | .op code args => decodeOp code args
  | .blk bytes => decodeBlk cfg bytes

/-! ### The encoder -/

/-- The encoding of an instruction (R62's codes; R63 and R66 for the block types). -/
def encode (cfg : Config) : Instr → Encoded
  | .encblk t p => .op 0x01 [.byte t, .bytes p]
  | .decblk b o => .op 0x02 [.bytes b, .nat o]
  | .asm n c => .op 0x03 [.bytes n, .bytes c]
  | .disasm t => .op 0x04 [.bytes t]
  | .cyclen b => .op 0x10 [.bit b]
  | .bldcyc n => .op 0x11 [.nat n]
  | .encbyte b => .op 0x12 [.byte b]
  | .encstrm b => .op 0x13 [.bytes b]
  | .silence q => .op 0x14 [.duration q]
  | .modul p q => .op 0x15 [.bytes p, .bytes q]
  | .demod S => .op 0x20 [.samples S]
  | .encaud t => .op 0x30 [.bytes t]
  | .decaud S => .op 0x31 [.samples S]
  | .namefile body => .blk (cfg.leaderByte :: cfg.syncByte :: 0x00 :: body)
  | .data body => .blk (cfg.leaderByte :: cfg.syncByte :: 0x01 :: body)
  | .eof body => .blk (cfg.leaderByte :: cfg.syncByte :: 0xFF :: body)

/-! ### Words of the opcode table -/

/-- The zero value of an argument kind. -/
def ArgKind.zero : ArgKind → Arg
  | .byte => .byte 0
  | .bytes => .bytes []
  | .nat => .nat 0
  | .bit => .bit false
  | .samples => .samples []
  | .duration => .duration 0

/-- The arguments of a call all of whose arguments are zero (no bits, so no bytes and no samples). -/
def zeroArgs (code : Byte) : List Arg := ((signature code).getD []).map ArgKind.zero

/-- The bytes of an `n`-byte table value, the first byte most significant (R79). -/
def tableBytes : (n w : Nat) → List Byte
  | 0, _ => []
  | n + 1, w => BitVec.ofNat 8 (w >>> (8 * n)) :: tableBytes n w

/-- The longest block: 6 + 255 bytes (R64). -/
def maxBlockBytes : Nat := 261

/-- The encoded instruction whose `nbits` table bits are `w` and whose every further bit is 0. A table value of one
byte is an operation code (format `OP`); a longer one is the first bytes of a block, the first byte most significant
(format `BLK`, R79). -/
def tableWord (nbits w : Nat) : Encoded :=
  if nbits ≤ 8 then .op (BitVec.ofNat 8 w) (zeroArgs (BitVec.ofNat 8 w))
  else .blk (tableBytes (nbits / 8) w ++ List.replicate (maxBlockBytes - nbits / 8) 0)

/-- The instruction the decoder reads from a word of the opcode table, at the default configuration. -/
def decodeTableWord (nbits w : Nat) : Option Instr :=
  match decode Config.default (tableWord nbits w) with
  | .ok i => some i
  | .error _ => none

end Sys2Proof
end

