-- ==== Sys2Proof/Machine/Fetch.lean ====
section
/-! DEFINITION. Where the next instruction comes from: the call in hand, or the tape image the sequencer is walking
(spec/10_state.md rule R22: the core has no program counter; `SEQ.OFF` plays its part in a tape image). -/

namespace Sys2Proof.Machine

/-- What the next step finds: nothing to do (`none`), an instruction, or the reason there is none. -/
def fetch (s : State) : Option (Except DecodeError Instr) :=
  match s.request with
  | .idle => none
  | .call code args => some (decodeOp code args)
  | .walk image => some (decodeBlk s.cfg (image.drop s.work.seq.off))

/-- A step whose fetch found no instruction. An unknown operation code selects nothing: no operation runs, nothing
changes, and the call is over (30_encoding.md R78, 93_implementation_defined.md U16). A call with arguments of other
types is none the spec gives a meaning to. In a walk it is a turn of R104's loop that meets no block of a known type: a
leader byte, the end of the image, a byte out of frame, a block cut short, a reserved type. -/
def notDecoded (s : State) (e : DecodeError) : Host.Outcome State Fault Refusal :=
  match s.request with
  | .idle => .next s
  | .call code _ =>
    match e with
    | .invalidCode _ => .next { s with request := .idle }
    | _ => .fault (.illTypedCall code)
  | .walk image => s.concludeTurn (walkTurn s.cfg s.work.frmSeq (image.drop s.work.seq.off))

/-- The request that makes the very next step find this encoded instruction: a call, or a tape image that has the block
at `SEQ.OFF` (after that many leader bytes, which the walk does not look at again). No register is initialised for a walk:
DESIGN CHOICE, notes/assumptions/26.md. -/
def requestFor (s : State) : Encoded → Request
  | .op code args => .call code args
  | .blk bytes => .walk (List.replicate s.work.seq.off s.cfg.leaderByte ++ bytes)

end Sys2Proof.Machine
end

