-- ==== Sys2Proof/Machine/Step.lean ====
section
/-! DEFINITION. One step: fetch, decode, run. -/

namespace Sys2Proof.Machine

/-- One step. With nothing asked of it the core stays as it is (spec/60_exceptions.md R171: ready for the next
operation). -/
def step (s : State) : Host.Outcome State Fault Refusal :=
  match fetch s with
  | none => .next s
  | some (.ok i) => exec i s
  | some (.error e) => notDecoded s e

/-- The state with a word of the opcode table (its further bits 0) placed where `step` fetches its next instruction.
DESIGN CHOICE: handing an image over initialises no register, so a block row reads `SEQ.OFF`, `SEQ.HDR` with its valid bit
and `SEQ.CODE` as they stand in `s` (R191 sets them for `disassemble` only); unsafe, notes/assumptions/26.md. -/
def State.withFetchWord (s : State) (nbits w : Nat) : State := { s with request := requestFor s (tableWord nbits w) }

end Sys2Proof.Machine
end

