-- ==== Sys2Proof/Safety.lean ====
section
/-! DEFINITION. What counts as a legal state and a safe run, in the terms the statements use. -/

namespace Sys2Proof.Machine

/-- The results an operation can deliver: a decoded block reports `6 + length` bytes, 6 to 261
(spec/40_block_framer.md R87); a program name is 8 bytes (spec/41_tape_stream.md R105); samples are signed 16-bit
(spec/30_encoding.md R74). -/
def Result.legal : Result → Prop
  | .void => True
  | .bytes _ => True
  | .block blk n => n = 6 + blk.payload.length ∧ blk.payload.length ≤ 255
  | .program hdr _ => hdr.programName.length = 8
  | .sampleCount _ => True
  | .samples S => samplesInRange S = true
  | .demodulated _ _ => True

/-- A walk in progress: the cursor has not passed the end of the image (spec/10_state.md R23) and no Data payload has
been collected before a Namefile block (spec/41_tape_stream.md R104). -/
def walkInv (s : State) : Prop :=
  match s.request with
  | .idle => True
  | .call _ _ => True
  | .walk image => s.work.seq.off ≤ image.length ∧ (s.work.seq.hdrValid = false → s.work.seq.code = [])

/-- The invariant of the core: `ERR` holds 0 or one of the six codes (spec/60_exceptions.md R166); after a failure no
result is shown (R170); `info` is 0 when `ERR` is (notes/assumptions/5.md); the result and a walk in progress are
legal. -/
structure State.Inv (s : State) : Prop where
  err_le : s.err.toNat ≤ 6
  void_of_err : s.err ≠ 0 → s.result = .void
  info_of_ok : s.err = 0 → s.info = 0
  result_legal : s.result.legal
  walk : walkInv s

/-- What the caller sees of a step's end (spec/10_state.md R17, R21): the refusal, or `ERR`, `info` and the result; of
a fault nothing. -/
def visible : Host.Outcome State Fault Refusal → Option (Except Refusal (Byte × Nat × Result))
  | .next t => some (.ok (t.err, t.info, t.result))
  | .refused why => some (.error why)
  | .fault _ => none

end Sys2Proof.Machine

namespace Sys2Proof

/-- The thirteen operations, as against the three block types of a tape walk (spec/00_scope.md R2). -/
def Instr.isOperation : Instr → Bool
  | .encblk _ _ => true
  | .decblk _ _ => true
  | .asm _ _ => true
  | .disasm _ => true
  | .cyclen _ => true
  | .bldcyc _ => true
  | .encbyte _ => true
  | .encstrm _ => true
  | .silence _ => true
  | .modul _ _ => true
  | .demod _ => true
  | .encaud _ => true
  | .decaud _ => true
  | .namefile _ => false
  | .data _ => false
  | .eof _ => false

end Sys2Proof
end

