-- ==== Sys2Proof/Certificates/Slice0/Obligations.lean ====
section
/-! DEFINITION. The statements for the provers. The first part writes the spec's values out a second time, in arithmetic
of its own, so that a statement does not merely repeat the model. -/

namespace Sys2Proof.Spec

open Sys2Proof.Machine

/-- The sum of the unsigned values of some bytes. -/
def byteSum (bs : List Byte) : Nat := (bs.map BitVec.toNat).sum

/-- `(type + len(payload) + sum of payload bytes) mod 256` (spec/40_block_framer.md R85). -/
def checksum (type : Byte) (payload : List Byte) : Byte :=
  BitVec.ofNat 8 ((type.toNat + payload.length + byteSum payload) % 256)

/-- A block with an arbitrary trailer byte (spec/30_encoding.md R63, spec/40_block_framer.md R88). -/
def blockWithTrailer (cfg : Config) (type : Byte) (payload : List Byte) (trailer : Byte) : List Byte :=
  [cfg.leaderByte, cfg.syncByte, type, BitVec.ofNat 8 payload.length] ++ payload ++ [checksum type payload, trailer]

/-- A block as `encodeBlock` writes it. -/
def block (cfg : Config) (type : Byte) (payload : List Byte) : List Byte :=
  blockWithTrailer cfg type payload cfg.leaderByte

/-- The body of a block (what follows its type byte). -/
def body (type : Byte) (payload : List Byte) (trailer : Byte) : List Byte :=
  BitVec.ofNat 8 payload.length :: payload ++ [checksum type payload, trailer]

/-- FRM after a block has been framed. -/
def framed (f : FrmRegs) (type : Byte) (payload : List Byte) : FrmRegs :=
  { f with csum := checksum type payload, type := type, len := BitVec.ofNat 8 payload.length }

/-- FRM after the block that starts at offset `off` has been parsed. -/
def parsed (f : FrmRegs) (type : Byte) (payload : List Byte) (off : Nat) : FrmRegs :=
  { framed f type payload with off := off + 6 + payload.length }

/-- The leader (spec/41_tape_stream.md R101). -/
def leader (cfg : Config) : List Byte := List.replicate cfg.leaderLen cfg.leaderByte

/-- A tape image with any leader lengths and any cut of the program: `n` leader bytes, a Namefile block, `m` leader
bytes, Data blocks, an EndOfFile block (spec/20_memory.md R47). -/
def image (cfg : Config) (n : Nat) (h : Vector Byte 15) (m : Nat) (pieces : List (List Byte)) : List Byte :=
  List.replicate n cfg.leaderByte ++ block cfg 0x00 h.toList ++ List.replicate m cfg.leaderByte ++
    pieces.flatMap (block cfg 0x01) ++ block cfg 0xFF []

/-- A cycle for a bit (spec/42_fsk_modulator.md R115, R116): the extra sample of an odd count is high. -/
def cycle (cfg : Config) (bit : Bool) : List Sample :=
  let n := if bit then cfg.sampleRate / cfg.freqOne else cfg.sampleRate / cfg.freqZero
  List.replicate (n - n / 2) (cfg.amp : Int) ++ List.replicate (n / 2) (-(cfg.amp : Int))

/-- The operation ends with the result `r` and the working registers `w`: a next state with `ERR` 0 and the
configuration unchanged (spec/10_state.md R17, spec/20_memory.md R49). What the model's own fields hold then is
`UnusedRegistersUnchanged`'s. -/
def Delivers (o : Host.Outcome State Fault Refusal) (s : State) (w : Work) (r : Result) : Prop :=
  ∃ t, o = .next t ∧ t.err = 0 ∧ t.result = r ∧ t.work = w ∧ t.cfg = s.cfg

/-- The operation takes the failure `e`: a next state with its code in `ERR`, `info`, and no result
(spec/60_exceptions.md R166, R170). Nothing is said of the working registers (spec/93_implementation_defined.md U17). -/
def Fails (o : Host.Outcome State Fault Refusal) (s : State) (e : Failure) (info : Nat) : Prop :=
  ∃ t, o = .next t ∧ t.err = e.code ∧ t.info = info ∧ t.result = .void ∧ t.cfg = s.cfg

/-- The step leaves the core with nothing in hand: the operation or the walk is over. That `State.request` says so is
the model's choice (notes/assumptions/6.md). -/
def AtRest (o : Host.Outcome State Fault Refusal) : Prop := ∃ t, o = .next t ∧ t.request = .idle

/-- The turn of a walk takes the failure `e` and the walk is over. -/
def FailsAtRest (o : Host.Outcome State Fault Refusal) (s : State) (e : Failure) (info : Nat) : Prop :=
  Fails o s e info ∧ AtRest o

/-- A failure has been taken from `s` to `t`: one of the six codes in `ERR`, no result, the configuration unchanged
(R170); nothing in hand and one free value drawn (the model's choices, notes/assumptions/6.md, 25.md). -/
def FailureTaken (s t : State) : Prop :=
  ∃ e : Failure, t.err = e.code ∧ t.result = .void ∧ t.request = .idle ∧ t.cfg = s.cfg ∧ t.free = s.free + 1

/-- A turn of a walk after which the walk goes on: nothing but working registers has changed. That the result shown to
the caller is untouched is the model's choice (notes/assumptions/12.md), and so is a turn as a step (6.md). -/
def GoesOn (s t : State) : Prop := t = { s with work := t.work }

/-- The bits of a byte, least significant first (spec/30_encoding.md R72). -/
def bitsOf (b : Byte) : List Bool := (List.range 8).map b.getLsbD

/-- The cells of every bit of every byte, in order (spec/30_encoding.md R72, R75). -/
def stream (cfg : Config) (bytes : List Byte) : List Sample := (bytes.flatMap bitsOf).flatMap (cycle cfg)

/-- The gap: `floor(SAMPLE_RATE * GAP_SECONDS)` zeros (spec/42_fsk_modulator.md R119, R120). -/
def gap (cfg : Config) : List Sample := List.replicate (⌊(cfg.sampleRate : Rat) * cfg.gapSeconds⌋.toNat) 0

/-- MOD after a stream of bytes: nothing is touched by an empty stream; otherwise the byte has been shifted out. -/
def modAfter (m : ModRegs) (bytes : List Byte) : ModRegs := if bytes = [] then m else { sr := 0, bitn := 8 }

/-- The registers of DEM as run detection finds them (spec/43_fsk_demodulator.md R130, spec/70_reset_and_hazards.md
R191). -/
def demStart (d : DemRegs) : DemRegs := { d with idx := 0, anchor := 0, runs := [] }

/-- Run detection leads from `d` to `d'` in some number of turns on the buffer `S`: each begins where the previous one
ended, and only while `DEM.IDX < N` (spec/43_fsk_demodulator.md R135). A turn is deterministic, so the registers at
which no further turn is possible are unique. -/
inductive Turns (cfg : Config) (S : List Sample) (d : DemRegs) : DemRegs → Prop where
  | none : Turns cfg S d d
  | next {e f : DemRegs} : Turns cfg S d e → e.idx < S.length → detectTurn cfg S e = .ok f () → Turns cfg S d f

/-- The turn that begins at `d` finds a high run that reaches the end of the buffer (spec/43_fsk_demodulator.md
R138). -/
def CutRun (cfg : Config) (S : List Sample) (d : DemRegs) : Prop :=
  d.idx < S.length ∧ 0 < highRun cfg (measureWindow cfg S d) (S.drop d.idx) ∧
    d.idx + highRun cfg (measureWindow cfg S d) (S.drop d.idx) = S.length

/-- What `demodulate` does with the runs of `d` when the buffer is exhausted (spec/43_fsk_demodulator.md R143 to R148):
`NoSignalError` if there is none; otherwise every run is classified against the average of all runs, whole groups of 8
bits become bytes, the first bit being bit 0, and the rest is dropped and counted. -/
def DemodEnds (o : Host.Outcome State Fault Refusal) (s : State) (d : DemRegs) : Prop :=
  let K := d.runs.length
  let rsum := (d.runs.map CycleRun.lengthInSamples).sum
  let bits := d.runs.map fun r => decide (r.lengthInSamples * K < rsum)
  (K = 0 → Fails o s .noSignalError 0) ∧
  (0 < K → ∃ (bs : List Byte) (residual : Fin 8), bs.length = K / 8 ∧ residual.val = K % 8 ∧
    (∀ g k, g < K / 8 → k < 8 → (bs[g]?).map (fun b => b.getLsbD k) = bits[8 * g + k]?) ∧
    Delivers o s
      { s.work with dem := { d with
        rsum := rsum
        bits := bits
        runs := d.runs.map fun r =>
          { r with classifiedBit := if r.lengthInSamples * K < rsum then RunBit.one else RunBit.zero }
        residual := residual } }
      (.demodulated bs residual))

/-- The header of an image that `assemble` made at the default configuration (spec/41_tape_stream.md R106). -/
def assembledHeader (startAddr loadAddr : Addr) (programName : List Byte) : NamefileHeader :=
  { programName := normaliseName (Config.defaultWith startAddr loadAddr) programName
    fileType := 0x00, asciiFlag := 0x00, gapFlag := 0x01
    startAddress := startAddr, loadAddress := loadAddr }

/-- The failures an operation can end in (spec/60_exceptions.md R182). -/
def mayFail : Instr → List Failure
  | .encblk _ _ => [.payloadTooLargeError]
  | .decblk _ _ => [.framingError, .checksumError, .truncatedInputError]
  | .asm _ _ => []
  | .disasm _ => [.framingError, .checksumError, .missingEndOfFileError, .truncatedInputError]
  | .cyclen _ => []
  | .bldcyc _ => []
  | .encbyte _ => []
  | .encstrm _ => []
  | .silence _ => []
  | .modul _ _ => []
  | .demod _ => [.noSignalError, .truncatedInputError]
  | .encaud _ => []
  | .decaud _ => [.framingError, .checksumError, .missingEndOfFileError, .noSignalError, .truncatedInputError]
  | .namefile _ => [.framingError, .checksumError, .truncatedInputError]
  | .data _ => [.framingError, .checksumError, .truncatedInputError]
  | .eof _ => [.framingError, .checksumError, .truncatedInputError]

/-- The operations that can end in a refusal (spec/60_exceptions.md R182). -/
def mayRefuse : Instr → Bool
  | .encblk _ _ => false
  | .decblk _ _ => false
  | .asm _ _ => false
  | .disasm _ => true
  | .cyclen _ => false
  | .bldcyc _ => false
  | .encbyte _ => false
  | .encstrm _ => false
  | .silence q => decide (q < 0)
  | .modul _ _ => false
  | .demod _ => false
  | .encaud _ => false
  | .decaud _ => true
  | .namefile _ => true
  | .data _ => true
  | .eof _ => true

end Sys2Proof.Spec

open Sys2Proof Sys2Proof.Machine

/-! ### The machine as a whole -/

/-- Reset leaves `ERR` at 0 (spec/70_reset_and_hazards.md R192), no call in hand, no result, and R5's configuration with
the two parameters of R7 free. That nothing is in hand and nothing shown is the model's choice (notes/assumptions/6.md,
12.md); the values of the working registers are too (4.md) and are not stated. -/
def Obligations.ResetClearsErr : Prop :=
  State.reset.err = 0 ∧ State.reset.request = .idle ∧ State.reset.result = .void ∧
    State.reset.cfg = Config.defaultWith Config.freeStartAddr Config.freeLoadAddr

/-- The reset state meets the invariant of `StepKeepsInvariant`. `ERR` is 0 there by 70_reset_and_hazards.md R192; that
`info` is 0, that no result is shown and that nothing is in hand are the model's choices (notes/assumptions/5.md, 12.md,
6.md). -/
def Obligations.ResetMeetsInvariant : Prop := State.reset.Inv

/-- Every step from a state that meets the invariant leads to one that does: `ERR` is a legal code (R166), a failure
shows no result (R170), results are legal (samples are 16-bit, a block reports `6 + length`, a name is 8 bytes, R105),
the cursor of a walk has not passed the end of its image (R23), no Data payload has been collected before a Namefile
block (R104), and `info` is 0 beside `ERR` = 0. That last clause is the model's choice (notes/assumptions/5.md, unsafe),
and so are the result that stays shown (12.md) and the walk as steps of its own (6.md). -/
def Obligations.StepKeepsInvariant : Prop := ∀ s t : State, s.Inv → step s = .next t → t.Inv

/-- The configuration record is an input that no step changes (spec/70_reset_and_hazards.md R193, spec/10_state.md
R19). -/
def Obligations.StepKeepsConfiguration : Prop := ∀ s t : State, step s = .next t → t.cfg = s.cfg

/-- A step runs the decoded instruction: the call in hand, or the block at `SEQ.OFF` of the image being walked. The step
adds nothing around `exec`. That a step takes its instruction from a call or an image in hand is the model's choice
(notes/assumptions/6.md), and that three bytes select a block instruction is its inference (14.md). -/
def Obligations.StepRunsDecodedInstruction : Prop :=
  ∀ (s : State) (i : Instr),
    (∀ code args, s.request = .call code args → decodeOp code args = .ok i → step s = exec i s) ∧
    (∀ image, s.request = .walk image → decodeBlk s.cfg (image.drop s.work.seq.off) = .ok i → step s = exec i s)

/-- With nothing in hand a step changes nothing: the model's choice, notes/assumptions/6.md. -/
def Obligations.IdleStepChangesNothing : Prop := ∀ s : State, s.request = .idle → step s = .next s

/-- A code outside R62's table runs no operation and changes nothing; the call is over (30_encoding.md R78,
93_implementation_defined.md U16; that the call is dropped is notes/assumptions/7.md). -/
def Obligations.UnknownCodeChangesNothing : Prop :=
  ∀ (s : State) (code : Byte) (args : List Arg),
    code ∉ ([0x01, 0x02, 0x03, 0x04, 0x10, 0x11, 0x12, 0x13, 0x14, 0x15, 0x20, 0x30, 0x31] : List Byte) →
    s.request = .call code args → step s = .next { s with request := .idle }

/-- A call whose arguments are not of the operation's types stops the step with a fault: the model's choice,
notes/assumptions/8.md. -/
def Obligations.IllTypedCallFaults : Prop :=
  ∀ (s : State) (code : Byte) (args : List Arg), s.request = .call code args →
    decodeOp code args = .error (.illTyped code) → step s = .fault (.illTypedCall code)

/-- No state survives from one operation to the next (10_state.md R21, 60_exceptions.md R171): what an operation ends
with, as the caller sees it, depends on its arguments and the configuration alone. (That `info` is 0 beside a result is
the model's choice, notes/assumptions/5.md.) -/
def Obligations.OutcomeIgnoresEarlierState : Prop :=
  ∀ (i : Instr) (s₁ s₂ : State), i.isOperation = true → s₁.cfg = s₂.cfg → visible (exec i s₁) = visible (exec i s₂)

/-- R170: an operation that ends with `ERR` not 0 has taken one of the six failures: `ERR` holds its code, no result is
shown and the configuration is unchanged. The same of every instruction, the three block rows included, and of every
step of a walk, unless the walk goes on with nothing but working registers changed (`ERR` then stands as it was): a
failing turn ends the walk. That nothing is in hand afterwards, that a turn is a step and that one free value has been
drawn are the model's choices (notes/assumptions/6.md, 25.md), and so is that the shown result stays while a walk goes
on (12.md). -/
def Obligations.FailureIsTaken : Prop :=
  (∀ (i : Instr) (s t : State), i.isOperation = true → exec i s = .next t → t.err ≠ 0 → Spec.FailureTaken s t) ∧
  (∀ (i : Instr) (s t : State), exec i s = .next t → t.err ≠ 0 →
    Spec.FailureTaken s t ∨ (i.isOperation = false ∧ Spec.GoesOn s t)) ∧
  (∀ (s t : State) (image : List Byte), s.request = .walk image → step s = .next t → t.err ≠ 0 →
    Spec.FailureTaken s t ∨ Spec.GoesOn s t)

/-- The operation-by-failure table (60_exceptions.md section 6, R182: the spec's own inference from R173 to R179), at
the default configuration: an operation ends in no failure and no refusal outside its row of the table, and `exec` never
faults. -/
def Obligations.FailureTableIsRespected : Prop :=
  ∀ (a b : Addr) (i : Instr) (s : State), s.cfg = Config.defaultWith a b → i.isOperation = true →
    (∀ t, exec i s = .next t → t.err = 0 ∨ ∃ e ∈ Spec.mayFail i, t.err = e.code) ∧
    (∀ why, exec i s = .refused why → Spec.mayRefuse i = true) ∧ (∀ f, exec i s ≠ .fault f)

/-- The frame of an operation that delivers its result: configuration and counter of free values unchanged, `info` 0 and
nothing in hand (the model's choices, notes/assumptions/5.md, 6.md, 25.md); of a block row, that its turn, where `ERR`
is 0 after it, either goes on or ends the walk like that (that the shown result is untouched by a turn that goes on is
the model's choice too, 12.md, unsafe; turns that go on beside an earlier operation's `ERR` are `NamefileBlockOutcome`'s
and `DataBlockOutcome`'s); and, for the block rows and the operations whose final registers no other statement writes
out, the registers that R191 does not list for them (R191 is the spec's own inference from the pseudocode) are
unchanged. -/
def Obligations.UnusedRegistersUnchanged : Prop :=
  ∀ (s t : State), t.err = 0 →
    (∀ i : Instr, i.isOperation = true → exec i s = .next t →
      t.cfg = s.cfg ∧ t.free = s.free ∧ t.info = 0 ∧ t.request = .idle) ∧
    (∀ i : Instr, i.isOperation = false → exec i s = .next t →
      (Spec.GoesOn s t ∨ (t.cfg = s.cfg ∧ t.free = s.free ∧ t.info = 0 ∧ t.request = .idle)) ∧
      t.work.mod = s.work.mod ∧ t.work.dem = s.work.dem ∧ t.work.seq.pos = s.work.seq.pos) ∧
    (∀ image, exec (.disasm image) s = .next t →
      t.work.mod = s.work.mod ∧ t.work.dem = s.work.dem ∧ t.work.seq.pos = s.work.seq.pos) ∧
    (∀ bytes o, exec (.decblk bytes o) s = .next t →
      t.work.seq = s.work.seq ∧ t.work.mod = s.work.mod ∧ t.work.dem = s.work.dem) ∧
    (∀ S, exec (.demod S) s = .next t →
      t.work.frm = s.work.frm ∧ t.work.seq = s.work.seq ∧ t.work.mod = s.work.mod) ∧
    (∀ S, exec (.decaud S) s = .next t → t.work.mod = s.work.mod ∧ t.work.seq.pos = s.work.seq.pos)

/-! ### Encoding -/

/-- Decoding the encoding of a well-formed instruction gives it back, for every operand (30_encoding.md R61 to R66). -/
def Obligations.DecodeOfEncode : Prop :=
  ∀ (cfg : Config) (i : Instr), i.wf = true → decode cfg (encode cfg i) = .ok i

/-- Every encoding has one meaning: what decodes as a call is the encoding of the instruction read; what decodes as a
block begins with that encoding; and the instruction read is well-formed. -/
def Obligations.EncodeOfDecode : Prop :=
  (∀ (cfg : Config) (code : Byte) (args : List Arg) (i : Instr), decodeOp code args = .ok i →
    encode cfg i = .op code args ∧ i.wf = true) ∧
  (∀ (cfg : Config) (bytes : List Byte) (i : Instr), decodeBlk cfg bytes = .ok i →
    i.wf = true ∧ ∃ blk rest, encode cfg i = .blk blk ∧ bytes = blk ++ rest)

/-- A few words of the opcode table and the instructions they stand for (30_encoding.md R62, R66, R79). The code or the
three bytes are the spec's; that a bare code has zero arguments and that zero bytes follow a block's word is the model's
choice (notes/assumptions/10.md). -/
def Obligations.TableWordsDecode : Prop :=
  decodeTableWord 8 0x01 = some (.encblk 0 []) ∧ decodeTableWord 8 0x04 = some (.disasm []) ∧
  decodeTableWord 8 0x15 = some (.modul [] []) ∧ decodeTableWord 8 0x20 = some (.demod []) ∧
  decodeTableWord 8 0x31 = some (.decaud []) ∧ decodeTableWord 24 0x553C01 = some (.data [0, 0, 0])

/-! ### FRM -/

/-- R85: the accumulator's final value is the sum mod 256, whatever the order of the payload, and the worked
examples. -/
def Obligations.ChecksumIsByteSum : Prop :=
  (∀ (type : Byte) (payload : List Byte), checksum type payload = Spec.checksum type payload) ∧
  (∀ (type : Byte) (p q : List Byte), p.Perm q → checksum type p = checksum type q) ∧
  (∀ (type : Byte) (p q : List Byte), p.length = q.length → Spec.byteSum p = Spec.byteSum q →
    checksum type p = checksum type q) ∧
  checksum 0x01 [0x41, 0x42] = 0x86 ∧ checksum 0xFF [] = 0xFF

/-- R86: `ENCBLK` on every payload. Up to `MAX_PAYLOAD` (255) it delivers lead-in, sync, type, length, payload,
checksum, trailer, and writes `FRM.CSUM`, `FRM.TYPE`, `FRM.LEN` and nothing else; above, it takes
`PayloadTooLargeError` with the length requested. -/
def Obligations.EncblkOutcome : Prop :=
  ∀ (s : State) (type : Byte) (payload : List Byte),
    if payload.length ≤ s.cfg.maxPayload then
      Spec.Delivers (exec (.encblk type payload) s) s { s.work with frm := Spec.framed s.work.frm type payload }
        (.bytes ([s.cfg.leaderByte, s.cfg.syncByte, type, BitVec.ofNat 8 payload.length] ++ payload ++
          [Spec.checksum type payload, s.cfg.leaderByte]))
    else Spec.Fails (exec (.encblk type payload) s) s .payloadTooLargeError payload.length

/-- R87, whole: `DECBLK` on every buffer and offset, the bytes examined in order, each with its bounds check first. -/
def Obligations.DecblkOutcome : Prop :=
  ∀ (s : State) (bytes : List Byte) (offset : Nat),
    let fail := Spec.Fails (exec (.decblk bytes offset) s) s
    match bytes.drop offset with
    | [] => fail .truncatedInputError offset
    | b0 :: r0 =>
      if b0 ≠ s.cfg.leaderByte then fail .framingError offset else
      match r0 with
      | [] => fail .truncatedInputError (offset + 1)
      | b1 :: r1 =>
        if b1 ≠ s.cfg.syncByte then fail .framingError (offset + 1) else
        match r1 with
        | [] => fail .truncatedInputError (offset + 2)
        | [_] => fail .truncatedInputError (offset + 3)
        | type :: len :: rest =>
          let payload := rest.take len.toNat
          if rest.length ≤ len.toNat then fail .truncatedInputError (offset + 4 + rest.length) else
          if rest[len.toNat]? ≠ some (Spec.checksum type payload) then
            fail .checksumError (offset + 4 + len.toNat) else
          if rest.length = len.toNat + 1 then fail .truncatedInputError (offset + 5 + len.toNat) else
          Spec.Delivers (exec (.decblk bytes offset) s) s
            { s.work with frm := Spec.parsed s.work.frm type payload offset }
            (.block { blockType := type, payload := payload, checksum := Spec.checksum type payload } (6 + len.toNat))

/-- The block round trip at any offset of a longer buffer, with the state it leaves (40_block_framer.md section 4, R90:
the spec's own inference from R86 and R87): what `ENCBLK` delivers, `DECBLK` reads back. -/
def Obligations.DecblkOfEncodedBlock : Prop :=
  ∀ (s : State) (type : Byte) (payload pre post : List Byte), payload.length ≤ s.cfg.maxPayload →
    (∃ t, exec (.encblk type payload) s = .next t ∧ t.result = .bytes (Spec.block s.cfg type payload)) ∧
    Spec.Delivers (exec (.decblk (pre ++ Spec.block s.cfg type payload ++ post) pre.length) s) s
      { s.work with frm := Spec.parsed s.work.frm type payload pre.length }
      (.block { blockType := type, payload := payload, checksum := Spec.checksum type payload } (6 + payload.length))

/-- R88: the trailer byte is consumed but not compared: at any offset of a longer buffer, whatever byte stands there,
the block is delivered with `bytesConsumed = 6 + length`; and `encodeBlock` always writes 0x55 (`LEADER_BYTE`) there. -/
def Obligations.TrailerIsNotCompared : Prop :=
  (∀ (s : State) (type : Byte) (payload : List Byte) (trailer : Byte) (pre post : List Byte), payload.length ≤ 255 →
    Spec.Delivers (exec (.decblk (pre ++ Spec.blockWithTrailer s.cfg type payload trailer ++ post) pre.length) s) s
      { s.work with frm := Spec.parsed s.work.frm type payload pre.length }
      (.block { blockType := type, payload := payload, checksum := Spec.checksum type payload }
        (6 + payload.length))) ∧
  (∀ (s : State) (type : Byte) (payload : List Byte), payload.length ≤ s.cfg.maxPayload →
    ∃ t bs, exec (.encblk type payload) s = .next t ∧ t.result = .bytes bs ∧
      bs[5 + payload.length]? = some s.cfg.leaderByte ∧ bs.length = 6 + payload.length)

/-- Every change of a single payload byte is detected, as `ChecksumError` at the checksum's offset (40_block_framer.md
section 4, R91: the spec's own inference from R85). -/
def Obligations.SingleByteChangeDetected : Prop :=
  ∀ (s : State) (type : Byte) (payload : List Byte) (k : Nat) (b : Byte), payload.length ≤ 255 →
    k < payload.length → payload[k]? ≠ some b →
    Spec.Fails (exec (.decblk ((Spec.block s.cfg type payload).set (4 + k) b) 0) s) s .checksumError
      (4 + payload.length)

/-! ### SEQ: assemble -/

/-- R100: the 15 bytes of `makeNamefile`. The case range 0x61 to 0x7A and the padding 0x20 rest on ASCII, which R69
takes from general knowledge (G2; notes/assumptions/19.md, PRESUMED). -/
def Obligations.NamefileHeaderBytes : Prop :=
  ∀ (cfg : Config) (programName : List Byte),
    (makeNamefile cfg programName).length = 15 ∧
    (∀ k < 8, (makeNamefile cfg programName)[k]? =
      some (match programName[k]? with
        | some c => if 0x61 ≤ c.toNat ∧ c.toNat ≤ 0x7A then BitVec.ofNat 8 (c.toNat - 0x20) else c
        | none => 0x20)) ∧
    (makeNamefile cfg programName).drop 8 =
      [0x00, 0x00, 0x01, BitVec.ofNat 8 (cfg.nfStartAddr.toNat / 256), BitVec.ofNat 8 (cfg.nfStartAddr.toNat % 256),
        BitVec.ofNat 8 (cfg.nfLoadAddr.toNat / 256), BitVec.ofNat 8 (cfg.nfLoadAddr.toNat % 256)]

/-- R101: `ASM` on every name and program, wherever the 15-byte header fits a block: leader, Namefile block, leader, the
Data blocks of a greedy cut (every piece `MAX_PAYLOAD` bytes except the last), EndOfFile block; `SEQ.POS` ends at the
program's length, and FRM holds the EndOfFile block's type, length and checksum. For an empty program there is no piece
(R102). -/
def Obligations.AsmOutcome : Prop :=
  ∀ (s : State) (programName codeBytes : List Byte), 15 ≤ s.cfg.maxPayload →
    ∃ pieces : List (List Byte), pieces.flatten = codeBytes ∧
      (∀ p ∈ pieces, 1 ≤ p.length ∧ p.length ≤ s.cfg.maxPayload) ∧
      (∀ p ∈ pieces.dropLast, p.length = s.cfg.maxPayload) ∧
      Spec.Delivers (exec (.asm programName codeBytes) s) s
        { s.work with frm := Spec.framed s.work.frm 0xFF [], seq := { s.work.seq with pos := codeBytes.length } }
        (.bytes (Spec.leader s.cfg ++ Spec.block s.cfg 0x00 (makeNamefile s.cfg programName) ++ Spec.leader s.cfg ++
          pieces.flatMap (Spec.block s.cfg 0x01) ++ Spec.block s.cfg 0xFF []))

/-- The image's length (20_memory.md R47, the spec's own inference, and R101, R102): it is `283 + n + 6k`,
`k = ceil(n / 255)`, at the default configuration; 283 bytes for an empty program. -/
def Obligations.AsmImageLength : Prop :=
  ∀ (a b : Addr) (s t : State) (programName codeBytes image : List Byte), s.cfg = Config.defaultWith a b →
    exec (.asm programName codeBytes) s = .next t → t.result = .bytes image →
      image.length = 283 + codeBytes.length + 6 * ((codeBytes.length + 254) / 255)

/-- With a `MAX_PAYLOAD` below 15, legal by R19, the Namefile block does not fit: `encodeBlock`'s failure propagates
(R86, R170; notes/assumptions/9.md: the model's reading). -/
def Obligations.AsmFailsWhereHeaderDoesNotFit : Prop :=
  ∀ (s : State) (programName codeBytes : List Byte), s.cfg.maxPayload < 15 →
    Spec.Fails (exec (.asm programName codeBytes) s) s .payloadTooLargeError 15

/-! ### SEQ: disassemble and the block types -/

/-- R105: `parseNamefile` splits the payload at R68's offsets and checks nothing. -/
def Obligations.ParseNamefileFields : Prop :=
  ∀ h : Vector Byte 15,
    (parseNamefile h).programName = [h[0], h[1], h[2], h[3], h[4], h[5], h[6], h[7]] ∧
    (parseNamefile h).fileType = h[8] ∧ (parseNamefile h).asciiFlag = h[9] ∧ (parseNamefile h).gapFlag = h[10] ∧
    (parseNamefile h).startAddress.toNat = h[11].toNat * 256 + h[12].toNat ∧
    (parseNamefile h).loadAddress.toNat = h[13].toNat * 256 + h[14].toNat

/-- R41: an address field is big-endian, the byte at the lower offset holding bits 15 to 8. -/
def Obligations.AddressIsBigEndian : Prop :=
  ∀ a : Addr, addrBytes a = [BitVec.ofNat 8 (a.toNat / 256), BitVec.ofNat 8 (a.toNat % 256)] ∧
    addrOfBytes (BitVec.ofNat 8 (a.toNat / 256)) (BitVec.ofNat 8 (a.toNat % 256)) = a

/-- R104: a first Namefile block of 15 bytes with a right checksum and any trailer: the cursor moves past it, `SEQ.HDR`
takes its payload and becomes valid; FRM holds the block's values; everything else is unchanged and the walk goes on
(that a turn of the walk is a step is the model's choice, notes/assumptions/6.md, and so is the shown result, 12.md). -/
def Obligations.NamefileBlockOutcome : Prop :=
  ∀ (s : State) (h : Vector Byte 15) (trailer : Byte), s.work.seq.hdrValid = false →
    exec (.namefile (Spec.body 0x00 h.toList trailer)) s =
      .next { s with work := { s.work with
        frm := Spec.parsed s.work.frm 0x00 h.toList s.work.seq.off
        seq := { s.work.seq with off := s.work.seq.off + 21, hdrValid := true, hdr := h } } }

/-- R104: a Data block of 1 to 255 bytes after a Namefile block: its payload is appended to `SEQ.CODE`
(a turn of the walk as a step: notes/assumptions/6.md, 12.md). -/
def Obligations.DataBlockOutcome : Prop :=
  ∀ (s : State) (payload : List Byte) (trailer : Byte), s.work.seq.hdrValid = true → 1 ≤ payload.length →
    payload.length ≤ 255 →
    exec (.data (Spec.body 0x01 payload trailer)) s =
      .next { s with work := { s.work with
        frm := Spec.parsed s.work.frm 0x01 payload s.work.seq.off
        seq := { s.work.seq with off := s.work.seq.off + 6 + payload.length,
                                 code := s.work.seq.code ++ payload } } }

/-- R104: an EndOfFile block after a Namefile block ends the walk with the header and the collected bytes and leaves
nothing in hand (a turn of the walk as a step, and `State.request`: the model's choices, notes/assumptions/6.md). -/
def Obligations.EofBlockOutcome : Prop :=
  ∀ (s : State) (trailer : Byte), s.work.seq.hdrValid = true →
    Spec.Delivers (exec (.eof (Spec.body 0xFF [] trailer)) s) s
      { s.work with
        frm := Spec.parsed s.work.frm 0xFF [] s.work.seq.off
        seq := { s.work.seq with off := s.work.seq.off + 6 } }
      (.program (parseNamefile s.work.seq.hdr) s.work.seq.code) ∧
    Spec.AtRest (exec (.eof (Spec.body 0xFF [] trailer)) s)

/-- R104: the seven refusals, each on a block that is otherwise whole and right. That a block row is a step over the
image in hand is the model's choice (notes/assumptions/6.md), and that a reserved type is no instruction but a turn of
the walk is its inference (14.md). -/
def Obligations.BlockRefusals : Prop :=
  ∀ (s : State) (payload : List Byte) (trailer : Byte), payload.length ≤ 255 →
    (s.work.seq.hdrValid = true → exec (.namefile (Spec.body 0x00 payload trailer)) s = .refused .secondNamefile) ∧
    (s.work.seq.hdrValid = false → payload.length ≠ 15 →
      exec (.namefile (Spec.body 0x00 payload trailer)) s = .refused .namefileLength) ∧
    (s.work.seq.hdrValid = false →
      exec (.data (Spec.body 0x01 payload trailer)) s = .refused .dataBeforeNamefile) ∧
    (s.work.seq.hdrValid = true → exec (.data (Spec.body 0x01 [] trailer)) s = .refused .emptyDataBlock) ∧
    (s.work.seq.hdrValid = false →
      exec (.eof (Spec.body 0xFF payload trailer)) s = .refused .eofBeforeNamefile) ∧
    (s.work.seq.hdrValid = true → payload ≠ [] →
      exec (.eof (Spec.body 0xFF payload trailer)) s = .refused .eofWithPayload) ∧
    (∀ (type : Byte) (image post : List Byte), type ≠ 0x00 → type ≠ 0x01 → type ≠ 0xFF → s.request = .walk image →
      image.drop s.work.seq.off = Spec.blockWithTrailer s.cfg type payload trailer ++ post →
      step s = .refused .reservedBlockType)

/-- R104, R87: the failures of `decodeBlock` propagate unchanged from each of the three block types: a wrong checksum,
and a block cut short anywhere after its type byte; the walk is over (R170). The same of a step of a walk at whose
cursor a block of any type starts, the reserved types included (`decodeBlock` runs before the type is looked at, so a
wrong checksum or a cut is not `reservedBlockType`); and an image that ends right after the sync byte is
`TruncatedInputError` with the index of the missing type byte (R104, corner cases). That a block row and a turn of the
walk are steps over the image in hand, and `State.request`, are the model's choices (notes/assumptions/6.md); which
blocks are instructions, and that such a block is judged when it runs, is its inference (14.md). -/
def Obligations.BlockFailuresPropagate : Prop :=
  ∀ (s : State) (payload more : List Byte) (c : Byte), payload.length ≤ 255 →
    let off := s.work.seq.off
    let bad := BitVec.ofNat 8 payload.length :: payload ++ c :: more
    (c ≠ Spec.checksum 0x00 payload →
      Spec.FailsAtRest (exec (.namefile bad) s) s .checksumError (off + 4 + payload.length)) ∧
    (c ≠ Spec.checksum 0x01 payload → Spec.FailsAtRest (exec (.data bad) s) s .checksumError (off + 4 + payload.length)) ∧
    (c ≠ Spec.checksum 0xFF payload → Spec.FailsAtRest (exec (.eof bad) s) s .checksumError (off + 4 + payload.length)) ∧
    (∀ k ≤ payload.length + 2, ∀ trailer : Byte,
      Spec.FailsAtRest (exec (.namefile ((Spec.body 0x00 payload trailer).take k)) s) s .truncatedInputError
        (off + 3 + k) ∧
      Spec.FailsAtRest (exec (.data ((Spec.body 0x01 payload trailer).take k)) s) s .truncatedInputError (off + 3 + k) ∧
      Spec.FailsAtRest (exec (.eof ((Spec.body 0xFF payload trailer).take k)) s) s .truncatedInputError (off + 3 + k)) ∧
    (∀ image, s.request = .walk image →
      (image.drop off = [s.cfg.leaderByte, s.cfg.syncByte] →
        Spec.FailsAtRest (step s) s .truncatedInputError (off + 2)) ∧
      (∀ type : Byte, c ≠ Spec.checksum type payload →
        image.drop off = [s.cfg.leaderByte, s.cfg.syncByte, type] ++ bad →
        Spec.FailsAtRest (step s) s .checksumError (off + 4 + payload.length)) ∧
      (∀ (type trailer : Byte), ∀ k ≤ payload.length + 2,
        image.drop off = [s.cfg.leaderByte, s.cfg.syncByte, type] ++ (Spec.body type payload trailer).take k →
        Spec.FailsAtRest (step s) s .truncatedInputError (off + 3 + k)))

/-- R103: a turn of the walk that meets no block: the end of the image (R176), a byte that is not 0x55 (R173), a leader
byte (`LEADER_BYTE` not followed by `SYNC_BYTE`). A block is `StepRunsDecodedInstruction`'s, `BlockRefusals`' and
`BlockFailuresPropagate`'s. The first two end the walk (R170). That a turn is a step, and `State.request`, are the
model's choices (notes/assumptions/6.md), and so is that the shown result stays while the walk goes on past a leader
byte (12.md, unsafe). -/
def Obligations.WalkBetweenBlocks : Prop :=
  ∀ (s : State) (image : List Byte), s.request = .walk image →
    (image.length ≤ s.work.seq.off →
      Spec.FailsAtRest (step s) s .missingEndOfFileError s.work.seq.off) ∧
    (∀ b, image[s.work.seq.off]? = some b → b ≠ s.cfg.leaderByte →
      Spec.FailsAtRest (step s) s .framingError s.work.seq.off) ∧
    (image[s.work.seq.off]? = some s.cfg.leaderByte → image[s.work.seq.off + 1]? ≠ some s.cfg.syncByte →
      step s = .next { s with work := { s.work with seq := { s.work.seq with off := s.work.seq.off + 1 } } })

/-- R104: `DISASM` is its loop: one operation does what the walk of the image does turn by turn, block instructions and
leader bytes in stream order, from the registers as R191 sets them, in at most `len(T) + 1` turns. The walk as a run of
several steps is the model's choice (notes/assumptions/6.md, unsafe), and what `SEQ.HDR` holds while it is not valid is
its inference (22.md). -/
def Obligations.DisasmIsTheWalk : Prop :=
  ∀ (s : State) (image : List Byte), ∃ k ≤ image.length + 1,
    Host.Core.run Sys2Proof.core k
        { s with request := .walk image, work := s.work.putFrmSeq s.work.frmSeq.startWalk } =
      exec (.disasm image) s

/-- R176: a buffer of leader bytes only, the empty buffer included, is exhausted without a terminator. -/
def Obligations.DisasmOfLeaderOnly : Prop :=
  ∀ (s : State) (n : Nat), s.cfg.leaderByte ≠ s.cfg.syncByte →
    Spec.Fails (exec (.disasm (List.replicate n s.cfg.leaderByte)) s) s .missingEndOfFileError n

/-- R104 on every image of the canonical shape, with leaders of any length (none included), any cut of the program into
pieces of 1 to 255 bytes, and anything after the EndOfFile block: the header, the joined payloads, and the registers the
walk leaves. -/
def Obligations.DisasmOfImage : Prop :=
  ∀ (s : State) (n m : Nat) (h : Vector Byte 15) (pieces : List (List Byte)) (post : List Byte),
    s.cfg.leaderByte ≠ s.cfg.syncByte → (∀ p ∈ pieces, 1 ≤ p.length ∧ p.length ≤ 255) →
    Spec.Delivers (exec (.disasm (Spec.image s.cfg n h m pieces ++ post)) s) s
      { s.work with
        frm := Spec.parsed s.work.frm 0xFF [] ((Spec.image s.cfg n h m pieces).length - 6)
        seq := { s.work.seq with off := (Spec.image s.cfg n h m pieces).length, hdrValid := true, hdr := h,
                                 code := pieces.flatten } }
      (.program (parseNamefile h) pieces.flatten)

/-- The stream round trip (41_tape_stream.md section 5, R106: the spec's own inference from R100 to R105): disassembling
an assembled image gives the program back and the normalised name, the flags 0x00, 0x00, 0x01 and the two configured
addresses, with no failure and no refusal; `SEQ.OFF` ends at the image's length. -/
def Obligations.DisasmOfAsm : Prop :=
  ∀ (a b : Addr) (s s' : State) (programName codeBytes : List Byte), s.cfg = Config.defaultWith a b →
    s'.cfg = Config.defaultWith a b →
    ∃ t image u, exec (.asm programName codeBytes) s = .next t ∧ t.err = 0 ∧ t.result = .bytes image ∧
      exec (.disasm image) s' = .next u ∧ u.err = 0 ∧
      u.result = .program (Spec.assembledHeader a b programName) codeBytes ∧ u.work.seq.off = image.length

/-! ### MOD -/

/-- R115: `CYCLEN` on both bits, and `shortCycleLength < longCycleLength` at the default frequencies. -/
def Obligations.CyclenOutcome : Prop :=
  (∀ (s : State) (bit : Bool), Spec.Delivers (exec (.cyclen bit) s) s s.work
    (.sampleCount (if bit then s.cfg.sampleRate / s.cfg.freqOne else s.cfg.sampleRate / s.cfg.freqZero))) ∧
  (∀ cfg : Config, cfg.freqZero = 1200 → cfg.freqOne = 2400 → cyclesForBit cfg true < cyclesForBit cfg false) ∧
  (∀ a b, cyclesForBit (Config.defaultWith a b) false = 40 ∧ cyclesForBit (Config.defaultWith a b) true = 20)

/-- R116: `BLDCYC` on every count: high half first, the extra sample of an odd count high; its sum is 0 for an even
count and `+AMP` for an odd one. -/
def Obligations.BldcycOutcome : Prop :=
  ∀ (s : State) (n : Nat), ∃ S : List Sample,
    Spec.Delivers (exec (.bldcyc n) s) s s.work (.samples S) ∧ S.length = n ∧
    (∀ k < n, S[k]? = some (if k < n - n / 2 then (s.cfg.amp : Int) else -(s.cfg.amp : Int))) ∧
    S.sum = if n % 2 = 0 then 0 else (s.cfg.amp : Int)

/-- R117: `ENCBYTE` sends the eight cycles, bit 0 first; `MOD.SR` ends shifted out and `MOD.BITN` at 8; 320 samples less
20 for every 1 bit at the default configuration. -/
def Obligations.EncbyteOutcome : Prop :=
  ∀ (s : State) (byte : Byte),
    Spec.Delivers (exec (.encbyte byte) s) s { s.work with mod := { sr := 0, bitn := 8 } }
      (.samples (((List.range 8).map byte.getLsbD).flatMap (Spec.cycle s.cfg))) ∧
    ∀ a b, (((List.range 8).map byte.getLsbD).flatMap (Spec.cycle (Config.defaultWith a b))).length =
      320 - 20 * ((List.range 8).map byte.getLsbD).count true

/-- R118: `ENCSTRM` is `encodeByte` of every byte in order, nothing in between. -/
def Obligations.EncstrmOutcome : Prop :=
  ∀ (s : State) (bytes : List Byte),
    Spec.Delivers (exec (.encstrm bytes) s) s { s.work with mod := Spec.modAfter s.work.mod bytes }
      (.samples (Spec.stream s.cfg bytes))

/-- The length laws and the zero sample sum, at the default configuration (42_fsk_modulator.md R121: the spec's own
inference from R115 to R120). -/
def Obligations.StreamLengthLaw : Prop :=
  ∀ (a b : Addr) (s : State), s.cfg = Config.defaultWith a b →
    (∀ bytes, ∃ t S, exec (.encstrm bytes) s = .next t ∧ t.result = .samples S ∧
      S.length + 20 * (bytes.flatMap Spec.bitsOf).count true = 320 * bytes.length ∧ S.sum = 0) ∧
    (∀ p q, ∃ t u v S₁ S₂ S, exec (.encstrm p) s = .next t ∧ exec (.encstrm q) s = .next u ∧
      exec (.modul p q) s = .next v ∧ t.result = .samples S₁ ∧ u.result = .samples S₂ ∧ v.result = .samples S ∧
      S.length = S₁.length + 24000 + S₂.length)

/-- R119: `SILENCE` is `floor(SAMPLE_RATE * q)` zeros for every non-negative rational `q`, computed exactly, and a
negative duration is refused (U6). -/
def Obligations.SilenceOutcome : Prop :=
  ∀ (s : State) (q : Rat),
    (0 ≤ q → Spec.Delivers (exec (.silence q) s) s s.work
      (.samples (List.replicate (⌊(s.cfg.sampleRate : Rat) * q⌋.toNat) 0))) ∧
    (q < 0 → exec (.silence q) s = .refused .negativeDuration)

/-- R120: `MODUL` on every two byte sequences: first part, gap, second part. -/
def Obligations.ModulOutcome : Prop :=
  ∀ (s : State) (part1 part2 : List Byte),
    Spec.Delivers (exec (.modul part1 part2) s) s { s.work with mod := Spec.modAfter s.work.mod (part1 ++ part2) }
      (.samples (Spec.stream s.cfg part1 ++ Spec.gap s.cfg ++ Spec.stream s.cfg part2))

/-! ### DEM -/

/-- R134: the three comparisons are those of the exact rationals: the mean `WSUM / WN`, the trigger
`WSUM / WN + WSPAN / TRIGGER_DIV`, the average `RSUM / K`. -/
def Obligations.ComparisonsAreExact : Prop :=
  (∀ (d : DemRegs) (v : Sample), 0 < d.wn → (aboveMean d v = true ↔ (v : ℚ) > (d.wsum : ℚ) / d.wn)) ∧
  (∀ (cfg : Config) (d : DemRegs) (v : Sample), 0 < d.wn →
    (belowTrigger cfg d v = true ↔ (v : ℚ) < (d.wsum : ℚ) / d.wn + (d.wspan : ℚ) / cfg.triggerDiv)) ∧
  (∀ k rsum length : Nat, 0 < k → (shorterThanAverage k rsum length = true ↔ (length : ℚ) < (rsum : ℚ) / k))

/-- R132, R133: the reference window of a turn: where it lies, that it is not longer than `W`, and its count and sum;
step 1 writes nothing else. Where `FREQ_ONE` is at most `SAMPLE_RATE`, which is R132's `W >= 1`, it is not empty and its
span is the largest difference of two of its samples. In the other configurations that R19 allows it is empty and its
span is a free value (notes/assumptions/3.md), of which only R15's range is stated. -/
def Obligations.WindowIsMeasured : Prop :=
  ∀ (cfg : Config) (S : List Sample) (d : DemRegs), d.idx < S.length → d.anchor ≤ d.idx →
    (let d' := measureWindow cfg S d
    let W := cfg.windowFactor * (cfg.sampleRate / cfg.freqOne)
    let w := (S.drop d'.ws).take d'.wn
    d'.ws = max d.anchor (d.idx - W) ∧ d'.we = min (d'.ws + W) S.length ∧ d'.wn = d'.we - d'.ws ∧
    d'.wn ≤ W ∧ w.length = d'.wn ∧ d'.wsum = w.sum ∧
    (cfg.freqOne ≤ cfg.sampleRate →
      1 ≤ d'.wn ∧ (∀ x ∈ w, ∀ y ∈ w, x - y ≤ d'.wspan) ∧ (∃ x ∈ w, ∃ y ∈ w, x - y = d'.wspan)) ∧
    (cfg.sampleRate < cfg.freqOne → d'.wn = 0 ∧ d'.wspan ≤ 65535) ∧
    d' = { d with ws := d'.ws, we := d'.we, wn := d'.wn, wsum := d'.wsum, wspan := d'.wspan })

/-- R136, R139: the high-run scan takes samples as long as the current one or one of its next `LOOKAHEAD` existing
neighbours exceeds the mean, and stops at the first where none does; the low-run skip takes samples as long as the
current one is below the trigger, without lookahead. -/
def Obligations.ScansStopWhereTheySay : Prop :=
  ∀ (cfg : Config) (d : DemRegs) (rest : List Sample),
    (∀ k < highRun cfg d rest, ∃ j ≤ cfg.lookahead, ∃ v, rest[k + j]? = some v ∧ aboveMean d v = true) ∧
    (highRun cfg d rest < rest.length → ∀ j ≤ cfg.lookahead, ∀ v, rest[highRun cfg d rest + j]? = some v →
      aboveMean d v = false) ∧
    (∀ k < lowSkip cfg d rest, ∃ v, rest[k]? = some v ∧ belowTrigger cfg d v = true) ∧
    (∀ v, rest[lowSkip cfg d rest]? = some v → belowTrigger cfg d v = false) ∧
    highRun cfg d rest ≤ rest.length ∧ lowSkip cfg d rest ≤ rest.length

/-- A turn of run detection, whole, on every buffer (R133, R135, R137 to R141). With the thresholds that step 1 measures
at its start: if the high-run scan advances and reaches the end of the buffer, the turn raises `TruncatedInputError`
with the index at which it began, and only then. Otherwise `DEM.RUN` and `DEM.SKIP` are what the two scans took, a run
longer than 0 is recorded, unclassified; a skip longer than the nominal window moves the anchor to the index after it; a
turn in which neither scan advanced moves on by one sample; nothing else is written. And `DEMOD`, whole, on every buffer
(R130, R135, R138, R143 to R148): its turns begin at `DEM.IDX` 0, `DEM.ANCHOR` 0 and no runs, each where the previous
one ended; they lead either to a turn whose high run reaches the end of the buffer, and `DEMOD` takes
`TruncatedInputError` with the index at which that turn began, or to the end of the buffer, and the runs recorded on the
way, all of them and no other, are classified and grouped. So where `DEMOD` ends in `TruncatedInputError`, one of its
own turns began at `info` and met that condition. -/
def Obligations.TurnBookkeeping : Prop :=
  (∀ (cfg : Config) (S : List Sample) (d : DemRegs),
    let m := measureWindow cfg S d
    let run := highRun cfg m (S.drop d.idx)
    let skip := lowSkip cfg m (S.drop (d.idx + run))
    (0 < run ∧ d.idx + run = S.length → ∃ r, detectTurn cfg S d = .raise r .truncatedInputError d.idx) ∧
    (¬(0 < run ∧ d.idx + run = S.length) → detectTurn cfg S d = .ok { m with
      run := run
      skip := skip
      runs := if run = 0 then d.runs else d.runs ++ [{ lengthInSamples := run, classifiedBit := .unknown }]
      idx := if run = 0 ∧ skip = 0 then d.idx + 1 else d.idx + run + skip
      anchor := if skip > cfg.windowFactor * (cfg.sampleRate / cfg.freqOne) then d.idx + run + skip else d.anchor } ())) ∧
  (∀ (s t : State) (S : List Sample), exec (.demod S) s = .next t → t.err = Failure.truncatedInputError.code →
    ∃ d : DemRegs, Spec.Turns s.cfg S (Spec.demStart s.work.dem) d ∧ d.idx = t.info ∧ Spec.CutRun s.cfg S d) ∧
  (∀ (s : State) (S : List Sample), ∃ d : DemRegs, Spec.Turns s.cfg S (Spec.demStart s.work.dem) d ∧
    ((Spec.CutRun s.cfg S d ∧ Spec.Fails (exec (.demod S) s) s .truncatedInputError d.idx) ∨
      (d.idx = S.length ∧ Spec.DemodEnds (exec (.demod S) s) s d)))

/-- Termination (43_fsk_demodulator.md R142: the spec's own inference from R135 and R141): every turn of run detection
moves `DEM.IDX` by at least 1 and never past `N`; so `demodulate` always ends, and where it delivers a result the whole
buffer has been scanned. -/
def Obligations.DetectionAdvances : Prop :=
  (∀ (cfg : Config) (S : List Sample) (d d' : DemRegs), d.idx < S.length → detectTurn cfg S d = .ok d' () →
    d.idx < d'.idx ∧ d'.idx ≤ S.length) ∧
  (∀ (s : State) (S : List Sample), ∃ t, exec (.demod S) s = .next t ∧
    (t.err = 0 → t.work.dem.idx = S.length))

/-- R137, R143 to R148: what a delivered result says: at least one run, none of length 0; a run is bit 1 exactly when it
is shorter than the average of all runs; bits are grouped by 8 in encounter order, the first being bit 0; the rest is
dropped and counted. -/
def Obligations.DemodResultShape : Prop :=
  ∀ (s t : State) (S : List Sample), exec (.demod S) s = .next t → t.err = 0 →
    ∃ (bs : List Byte) (residual : Fin 8), t.result = .demodulated bs residual ∧
      (let lengths := t.work.dem.runs.map CycleRun.lengthInSamples
      let K := lengths.length
      0 < K ∧ (∀ l ∈ lengths, 1 ≤ l) ∧ t.work.dem.rsum = lengths.sum ∧
      t.work.dem.bits = lengths.map (fun l => decide (l * K < lengths.sum)) ∧
      t.work.dem.runs.map CycleRun.classifiedBit =
        t.work.dem.bits.map (fun b => if b then RunBit.one else RunBit.zero) ∧
      bs.length = K / 8 ∧ residual.val = K % 8 ∧ t.work.dem.residual = residual ∧
      ∀ g k, g < K / 8 → k < 8 → (bs[g]?).map (fun b => b.getLsbD k) = t.work.dem.bits[8 * g + k]?)

/-- R143, R141: a constant buffer, the empty one and silence included, has no run: `NoSignalError`, in every legal
configuration; and where `FREQ_ONE` is above `SAMPLE_RATE`, so that the window of R132 has no samples, no buffer has one
(whatever the span of that window is, notes/assumptions/3.md). -/
def Obligations.ConstantBufferHasNoSignal : Prop :=
  (∀ (s : State) (n : Nat) (v : Sample),
    Spec.Fails (exec (.demod (List.replicate n v)) s) s .noSignalError 0) ∧
  (∀ (s : State) (S : List Sample), s.cfg.sampleRate < s.cfg.freqOne →
    Spec.Fails (exec (.demod S) s) s .noSignalError 0)

/-- R138: a buffer that ends in the middle of a high half raises `TruncatedInputError` with the index at which that turn
began: whole cycles followed by one or more high samples. -/
def Obligations.CutHighHalfIsTruncated : Prop :=
  ∀ (a b : Addr) (s : State) (bytes : List Byte) (n : Nat), s.cfg = Config.defaultWith a b → bytes ≠ [] → 1 ≤ n →
    Spec.Fails (exec (.demod (Spec.stream s.cfg bytes ++ List.replicate n 8000)) s) s .truncatedInputError
      (Spec.stream s.cfg bytes).length

/-- On the modulator's output (43_fsk_demodulator.md R149: the spec's own inference from R132 to R141) exactly one run
per cycle is recorded, 10 samples for a short cycle and 20 for a long one, the anchor is never reset and there is no
failure. -/
def Obligations.OneRunPerCycle : Prop :=
  ∀ (a b : Addr) (s : State) (bytes : List Byte), s.cfg = Config.defaultWith a b → bytes ≠ [] →
    ∃ t, exec (.demod (Spec.stream s.cfg bytes)) s = .next t ∧ t.err = 0 ∧ t.work.dem.anchor = 0 ∧
      t.work.dem.runs.map CycleRun.lengthInSamples =
        (bytes.flatMap Spec.bitsOf).map (fun bit => if bit then 10 else 20)

/-- The noiseless round trip (43_fsk_demodulator.md R150: the spec's own inference from R144 and R149) for every byte
sequence that is not empty and not all 0xFF, and its two exceptions: all 0xFF comes back as as many 0x00, and the empty
sequence is `NoSignalError`. -/
def Obligations.DemodRecoversStream : Prop :=
  ∀ (a b : Addr) (s : State) (bytes : List Byte), s.cfg = Config.defaultWith a b →
    (∃ v, exec (.encstrm bytes) s = .next v ∧ v.result = .samples (Spec.stream s.cfg bytes)) ∧
    (bytes ≠ [] → (∃ x ∈ bytes, x ≠ 0xFF) →
      ∃ t, exec (.demod (Spec.stream s.cfg bytes)) s = .next t ∧ t.err = 0 ∧ t.result = .demodulated bytes 0) ∧
    (bytes ≠ [] → (∀ x ∈ bytes, x = 0xFF) →
      ∃ t, exec (.demod (Spec.stream s.cfg bytes)) s = .next t ∧ t.err = 0 ∧
        t.result = .demodulated (List.replicate bytes.length 0x00) 0) ∧
    (bytes = [] → Spec.Fails (exec (.demod (Spec.stream s.cfg bytes)) s) s .noSignalError 0)

/-- Crossing the gap (70_reset_and_hazards.md R202 and 44_pipeline.md R157: the spec's own inferences): where the byte
before the gap has a 1 among its bits 5, 6 and 7 and the bits are not all 1, the two parts are recovered joined. -/
def Obligations.DemodCrossesGap : Prop :=
  ∀ (a b : Addr) (s : State) (front part2 : List Byte) (last : Byte), s.cfg = Config.defaultWith a b →
    0x20 ≤ last.toNat → (∃ x ∈ front ++ last :: part2, x ≠ 0xFF) →
    ∃ t, exec (.demod (Spec.stream s.cfg (front ++ [last]) ++ List.replicate 24000 0 ++ Spec.stream s.cfg part2)) s =
        .next t ∧ t.err = 0 ∧ t.result = .demodulated (front ++ last :: part2) 0

/-! ### PIPE -/

/-- R155: `ENCAUD` is `modulate` of the first `SPLIT_LEN` bytes (all of them where there are fewer) and the rest. -/
def Obligations.EncaudOutcome : Prop :=
  ∀ (s : State) (image : List Byte),
    exec (.encaud image) s = exec (.modul (image.take s.cfg.splitLen) (image.drop s.cfg.splitLen)) s ∧
    ∃ t, exec (.encaud image) s = .next t ∧ t.err = 0 ∧
      t.result = .samples (Spec.stream s.cfg (image.take s.cfg.splitLen) ++ Spec.gap s.cfg ++
        Spec.stream s.cfg (image.drop s.cfg.splitLen))

/-- R156: `DECAUD` is `disassemble` of the demodulated bytes; `residualBits` is discarded and every failure of
`demodulate` is passed on unchanged. -/
def Obligations.DecaudComposes : Prop :=
  ∀ (s : State) (S : List Sample), ∃ t, exec (.demod S) s = .next t ∧
    (t.err ≠ 0 → exec (.decaud S) s = .next t) ∧
    (t.err = 0 → ∃ bytes residual, t.result = .demodulated bytes residual ∧
      exec (.decaud S) s = exec (.disasm bytes) t)

/-- R156 on the audio of any image of the canonical shape sent without a gap: the header and the joined payloads. -/
def Obligations.DecaudOfUngappedAudio : Prop :=
  ∀ (a b : Addr) (s : State) (n m : Nat) (h : Vector Byte 15) (pieces : List (List Byte)),
    s.cfg = Config.defaultWith a b → (∀ p ∈ pieces, 1 ≤ p.length ∧ p.length ≤ 255) →
    ∃ u, exec (.decaud (Spec.stream s.cfg (Spec.image s.cfg n h m pieces))) s = .next u ∧ u.err = 0 ∧
      u.result = .program (parseNamefile h) pieces.flatten ∧ u.work.mod = s.work.mod

/-- The audio round trip of every program, through the gap (44_pipeline.md R158: the spec's own inference from R155 to
R157, R150 and R106). -/
def Obligations.DecaudOfEncaudOfAsm : Prop :=
  ∀ (a b : Addr) (s : State) (programName codeBytes : List Byte), s.cfg = Config.defaultWith a b →
    ∃ t image v S u w, exec (.asm programName codeBytes) s = .next t ∧ t.result = .bytes image ∧
      exec (.encaud image) s = .next v ∧ v.result = .samples S ∧
      exec (.disasm image) s = .next w ∧
      exec (.decaud S) s = .next u ∧ u.err = 0 ∧ u.result = w.result ∧
      u.result = .program (Spec.assembledHeader a b programName) codeBytes

/-! ### The container boundary -/

/-- A sample at the container boundary (20_memory.md R43; two's complement is the spec's general knowledge, G1): two
bytes, low byte first, of `w = v mod 65536`; two bytes `[lo, hi]` are read as the signed value of `{hi, lo}`; so a
sample is read back unchanged. -/
def Obligations.ContainerRoundTrip : Prop :=
  (∀ v : Sample, sampleInRange v = true →
    containerBytes v = [BitVec.ofNat 8 ((v % 65536).toNat % 256), BitVec.ofNat 8 ((v % 65536).toNat / 256)] ∧
    sampleOfContainer (BitVec.ofNat 8 ((v % 65536).toNat % 256)) (BitVec.ofNat 8 ((v % 65536).toNat / 256)) = v) ∧
  (∀ lo hi : Byte, sampleOfContainer lo hi =
    if hi.toNat < 128 then ((hi.toNat * 256 + lo.toNat : Nat) : Int)
    else ((hi.toNat * 256 + lo.toNat : Nat) : Int) - 65536)
end

