-- ==== Sys2Proof/Laws/State.lean ====
section
/-! SUPPORT. One lemma per field per update of the state. -/

namespace Sys2Proof.Machine

section Deliver
variable (s : State) (w : Work) (r : Result)
@[simp] theorem State.deliver_cfg : (s.deliver w r).cfg = s.cfg := rfl
@[simp] theorem State.deliver_request : (s.deliver w r).request = .idle := rfl
@[simp] theorem State.deliver_work : (s.deliver w r).work = w := rfl
@[simp] theorem State.deliver_err : (s.deliver w r).err = 0 := rfl
@[simp] theorem State.deliver_info : (s.deliver w r).info = 0 := rfl
@[simp] theorem State.deliver_result : (s.deliver w r).result = r := rfl
@[simp] theorem State.deliver_free : (s.deliver w r).free = s.free := rfl
end Deliver

section TakeFailure
variable (s : State) (w : Work) (e : Failure) (n : Nat)
@[simp] theorem State.takeFailure_cfg : (s.takeFailure w e n).cfg = s.cfg := rfl
@[simp] theorem State.takeFailure_request : (s.takeFailure w e n).request = .idle := rfl
@[simp] theorem State.takeFailure_work : (s.takeFailure w e n).work = w.afterFailure s.free := rfl
@[simp] theorem State.takeFailure_err : (s.takeFailure w e n).err = e.code := rfl
@[simp] theorem State.takeFailure_info : (s.takeFailure w e n).info = n := rfl
@[simp] theorem State.takeFailure_result : (s.takeFailure w e n).result = .void := rfl
@[simp] theorem State.takeFailure_free : (s.takeFailure w e n).free = s.free + 1 := rfl
end TakeFailure

@[simp] theorem Work.afterFailure_frm_off (w : Work) (n : Nat) : (w.afterFailure n).frm.off = w.frm.off := rfl

/-- A failure's state depends on the registers it leaves only through `FRM.OFF`. -/
theorem State.takeFailure_congr (s : State) {w w' : Work} (h : w.frm.off = w'.frm.off) (e : Failure) (n : Nat) :
    s.takeFailure w e n = s.takeFailure w' e n := by
  simp only [State.takeFailure, Work.afterFailure, h]

section PutFrmSeq
variable (w : Work) (u v : FrmSeq)
@[simp] theorem Work.putFrmSeq_frm : (w.putFrmSeq u).frm = u.frm := rfl
@[simp] theorem Work.putFrmSeq_seq : (w.putFrmSeq u).seq = u.seq := rfl
@[simp] theorem Work.putFrmSeq_mod : (w.putFrmSeq u).mod = w.mod := rfl
@[simp] theorem Work.putFrmSeq_dem : (w.putFrmSeq u).dem = w.dem := rfl
@[simp] theorem Work.frmSeq_frm : w.frmSeq.frm = w.frm := rfl
@[simp] theorem Work.frmSeq_seq : w.frmSeq.seq = w.seq := rfl
@[simp] theorem Work.putFrmSeq_frmSeq : (w.putFrmSeq u).frmSeq = u := rfl
@[simp] theorem Work.putFrmSeq_putFrmSeq : (w.putFrmSeq u).putFrmSeq v = w.putFrmSeq v := rfl
@[simp] theorem Work.putFrmSeq_self : w.putFrmSeq w.frmSeq = w := rfl
end PutFrmSeq

section StartWalk
variable (u : FrmSeq)
@[simp] theorem FrmSeq.startWalk_frm : u.startWalk.frm = u.frm := rfl
@[simp] theorem FrmSeq.startWalk_off : u.startWalk.seq.off = 0 := rfl
@[simp] theorem FrmSeq.startWalk_hdrValid : u.startWalk.seq.hdrValid = false := rfl
@[simp] theorem FrmSeq.startWalk_hdr : u.startWalk.seq.hdr = u.seq.hdr := rfl
@[simp] theorem FrmSeq.startWalk_code : u.startWalk.seq.code = [] := rfl
@[simp] theorem FrmSeq.startWalk_pos : u.startWalk.seq.pos = u.seq.pos := rfl
end StartWalk

section WithFetchWord
variable (s : State) (nbits w : Nat)
@[simp] theorem State.withFetchWord_cfg : (s.withFetchWord nbits w).cfg = s.cfg := rfl
@[simp] theorem State.withFetchWord_request :
    (s.withFetchWord nbits w).request = requestFor s (tableWord nbits w) := rfl
@[simp] theorem State.withFetchWord_work : (s.withFetchWord nbits w).work = s.work := rfl
@[simp] theorem State.withFetchWord_err : (s.withFetchWord nbits w).err = s.err := rfl
@[simp] theorem State.withFetchWord_info : (s.withFetchWord nbits w).info = s.info := rfl
@[simp] theorem State.withFetchWord_result : (s.withFetchWord nbits w).result = s.result := rfl
@[simp] theorem State.withFetchWord_free : (s.withFetchWord nbits w).free = s.free := rfl
end WithFetchWord

section DefaultWith
variable (a b : Addr)
@[simp] theorem Config.defaultWith_sampleRate : (Config.defaultWith a b).sampleRate = 48000 := rfl
@[simp] theorem Config.defaultWith_sampleBits : (Config.defaultWith a b).sampleBits = 16 := rfl
@[simp] theorem Config.defaultWith_channels : (Config.defaultWith a b).channels = 1 := rfl
@[simp] theorem Config.defaultWith_nameLen : (Config.defaultWith a b).nameLen = 8 := rfl
@[simp] theorem Config.defaultWith_namefileLen : (Config.defaultWith a b).namefileLen = 15 := rfl
@[simp] theorem Config.defaultWith_freqZero : (Config.defaultWith a b).freqZero = 1200 := rfl
@[simp] theorem Config.defaultWith_freqOne : (Config.defaultWith a b).freqOne = 2400 := rfl
@[simp] theorem Config.defaultWith_amp : (Config.defaultWith a b).amp = 8000 := rfl
@[simp] theorem Config.defaultWith_gapSeconds : (Config.defaultWith a b).gapSeconds = Config.halfSecond := rfl
@[simp] theorem Config.defaultWith_leaderByte : (Config.defaultWith a b).leaderByte = 0x55 := rfl
@[simp] theorem Config.defaultWith_syncByte : (Config.defaultWith a b).syncByte = 0x3C := rfl
@[simp] theorem Config.defaultWith_leaderLen : (Config.defaultWith a b).leaderLen = 128 := rfl
@[simp] theorem Config.defaultWith_maxPayload : (Config.defaultWith a b).maxPayload = 255 := rfl
@[simp] theorem Config.defaultWith_splitLen : (Config.defaultWith a b).splitLen = 149 := rfl
@[simp] theorem Config.defaultWith_windowFactor : (Config.defaultWith a b).windowFactor = 3 := rfl
@[simp] theorem Config.defaultWith_triggerDiv : (Config.defaultWith a b).triggerDiv = 6 := rfl
@[simp] theorem Config.defaultWith_lookahead : (Config.defaultWith a b).lookahead = 3 := rfl
@[simp] theorem Config.defaultWith_nfStartAddr : (Config.defaultWith a b).nfStartAddr = a := rfl
@[simp] theorem Config.defaultWith_nfLoadAddr : (Config.defaultWith a b).nfLoadAddr = b := rfl
@[simp] theorem Config.defaultWith_partialGroup : (Config.defaultWith a b).partialGroup = .drop := rfl
@[simp] theorem shortCycle_default : shortCycle (Config.defaultWith a b) = 20 := by norm_num [shortCycle]
@[simp] theorem longCycle_default : longCycle (Config.defaultWith a b) = 40 := by norm_num [longCycle]
@[simp] theorem windowLen_default : windowLen (Config.defaultWith a b) = 60 := by simp [windowLen]
@[simp] theorem gapSamples_default : gapSamples (Config.defaultWith a b) = 24000 := by
  simp only [gapSamples, durationSamples, Config.halfSecond, Config.defaultWith]; decide
@[simp] theorem highSample_default : highSample (Config.defaultWith a b) = 8000 := rfl
@[simp] theorem lowSample_default : lowSample (Config.defaultWith a b) = -8000 := rfl
end DefaultWith

/-- The short cycle and the window have samples exactly where `FREQ_ONE` is at most `SAMPLE_RATE`. -/
theorem Config.shortCycle_pos_iff (cfg : Config) : 0 < shortCycle cfg ↔ cfg.freqOne ≤ cfg.sampleRate := by
  have h := cfg.legal
  exact Nat.div_pos_iff.trans ⟨And.right, fun hle => ⟨by omega, hle⟩⟩

theorem Config.windowLen_pos_iff (cfg : Config) : 0 < windowLen cfg ↔ cfg.freqOne ≤ cfg.sampleRate := by
  have h := cfg.legal
  rw [← Config.shortCycle_pos_iff, windowLen, Nat.mul_pos_iff_of_pos_left (by omega)]

end Sys2Proof.Machine
end

