-- ==== Sys2Proof/Laws/Ops.lean ====
section
/-! SUPPORT. One lemma for each shared operation that says once what it can do. -/

namespace Sys2Proof.Machine

/-! ### Res -/

section Res
variable {ρ σ α β : Type}
@[simp] theorem Res.bind_ok (r : ρ) (a : α) (k : ρ → α → Res ρ β) : (Res.ok r a).bind k = k r a := rfl
@[simp] theorem Res.bind_raise (r : ρ) (e : Failure) (n : Nat) (k : ρ → α → Res ρ β) :
    (Res.raise r e n).bind k = .raise r e n := rfl
@[simp] theorem Res.bind_refuse (why : Refusal) (k : ρ → α → Res ρ β) :
    (Res.refuse why : Res ρ α).bind k = .refuse why := rfl
@[simp] theorem Res.lift_ok (f : ρ → σ) (g : α → β) (r : ρ) (a : α) : (Res.ok r a).lift f g = .ok (f r) (g a) := rfl
@[simp] theorem Res.lift_raise (f : ρ → σ) (g : α → β) (r : ρ) (e : Failure) (n : Nat) :
    (Res.raise r e n : Res ρ α).lift f g = .raise (f r) e n := rfl
@[simp] theorem Res.lift_refuse (f : ρ → σ) (g : α → β) (why : Refusal) :
    (Res.refuse why : Res ρ α).lift f g = .refuse why := rfl

theorem Res.bind_eq_ok {x : Res ρ α} {k : ρ → α → Res ρ β} {r : ρ} {b : β} :
    x.bind k = .ok r b ↔ ∃ r' a, x = .ok r' a ∧ k r' a = .ok r b := by
  cases x <;> simp [Res.bind]

theorem Res.bind_eq_raise {x : Res ρ α} {k : ρ → α → Res ρ β} {r : ρ} {e : Failure} {n : Nat} :
    x.bind k = .raise r e n ↔ x = .raise r e n ∨ ∃ r' a, x = .ok r' a ∧ k r' a = .raise r e n := by
  cases x <;> simp [Res.bind]

theorem Res.bind_eq_refuse {x : Res ρ α} {k : ρ → α → Res ρ β} {why : Refusal} :
    x.bind k = .refuse why ↔ x = .refuse why ∨ ∃ r' a, x = .ok r' a ∧ k r' a = .refuse why := by
  cases x <;> simp [Res.bind]

theorem Res.lift_eq_ok {x : Res ρ α} {f : ρ → σ} {g : α → β} {r : σ} {b : β} :
    x.lift f g = .ok r b ↔ ∃ r' a, x = .ok r' a ∧ f r' = r ∧ g a = b := by
  cases x <;> simp [Res.lift]

theorem Res.lift_eq_raise {x : Res ρ α} {f : ρ → σ} {g : α → β} {r : σ} {e : Failure} {n : Nat} :
    x.lift f g = .raise r e n ↔ ∃ r', x = .raise r' e n ∧ f r' = r := by
  cases x with
  | ok r' a => simp
  | raise r' e' n' => simp only [Res.lift_raise, Res.raise.injEq]; grind
  | refuse why => simp
end Res

/-! ### The ends of an operation and of a turn -/

theorem State.conclude_eq_next {ρ α : Type} {s t : State} {put : ρ → Work} {out : α → Result} {x : Res ρ α}
    (h : s.conclude put out x = .next t) :
    (∃ r a, x = .ok r a ∧ t = s.deliver (put r) (out a)) ∨
      (∃ r e n, x = .raise r e n ∧ t = s.takeFailure (put r) e n) := by
  cases x with
  | ok r a => exact .inl ⟨r, a, rfl, by cases h; rfl⟩
  | raise r e n => exact .inr ⟨r, e, n, rfl, by cases h; rfl⟩
  | refuse why => cases h

theorem State.conclude_eq_refused {ρ α : Type} {s : State} {put : ρ → Work} {out : α → Result} {x : Res ρ α}
    {why : Refusal} (h : s.conclude put out x = .refused why) : x = .refuse why := by
  cases x with
  | ok r a => cases h
  | raise r e n => cases h
  | refuse why' => cases h; rfl

theorem State.conclude_ne_fault {ρ α : Type} (s : State) (put : ρ → Work) (out : α → Result) (x : Res ρ α)
    (f : Fault) : s.conclude put out x ≠ .fault f := by
  cases x <;> simp [State.conclude]

theorem State.concludeTurn_eq_next {s t : State} {x : Res FrmSeq (Option (NamefileHeader × List Byte))}
    (h : s.concludeTurn x = .next t) :
    (∃ u, x = .ok u none ∧ t = { s with work := s.work.putFrmSeq u }) ∨
      (∃ u hdr code, x = .ok u (some (hdr, code)) ∧ t = s.deliver (s.work.putFrmSeq u) (.program hdr code)) ∨
      (∃ u e n, x = .raise u e n ∧ t = s.takeFailure (s.work.putFrmSeq u) e n) := by
  match x, h with
  | .ok u none, h => exact .inl ⟨u, rfl, by cases h; rfl⟩
  | .ok u (some (hdr, code)), h => exact .inr (.inl ⟨u, hdr, code, rfl, by cases h; rfl⟩)
  | .raise u e n, h => exact .inr (.inr ⟨u, e, n, rfl, by cases h; rfl⟩)
  | .refuse _, h => cases h

/-! ### Reading a buffer -/

theorem memRead_eq_ok {ρ : Type} {r r' : ρ} {rest : List Byte} {base k : Nat} {b : Byte} :
    memRead r rest base k = .ok r' b ↔ r' = r ∧ rest[k]? = some b := by
  unfold memRead
  cases h : rest[k]? <;> simp [eq_comm]

theorem memRead_eq_raise {ρ : Type} {r r' : ρ} {rest : List Byte} {base k n : Nat} {e : Failure} :
    memRead r rest base k = .raise r' e n ↔
      r' = r ∧ e = .truncatedInputError ∧ n = base + k ∧ rest.length ≤ k := by
  unfold memRead
  cases h : rest[k]? with
  | some b =>
    have hk : k < rest.length := (List.getElem?_eq_some_iff.mp h).1
    simp; omega
  | none =>
    have hk : rest.length ≤ k := List.getElem?_eq_none_iff.mp h
    constructor
    · intro h; cases h; exact ⟨rfl, rfl, rfl, hk⟩
    · rintro ⟨rfl, rfl, rfl, -⟩; rfl

/-- The payload loop reads whole payloads, adding every byte to the accumulator. -/
theorem readPayload_ok (rest : List Byte) (base : Nat) : ∀ (n k : Nat) (f : FrmRegs), k + n ≤ rest.length →
    readPayload f rest base k n =
      .ok { f with csum := ((rest.drop k).take n).foldl addToChecksum f.csum } ((rest.drop k).take n)
  | 0, k, f, _ => by simp [readPayload]
  | n + 1, k, f, h => by
    have hk : k < rest.length := by omega
    have hd : rest.drop k = rest[k] :: rest.drop (k + 1) := List.drop_eq_getElem_cons hk
    rw [readPayload, memRead, List.getElem?_eq_getElem hk, Res.bind_ok,
      readPayload_ok rest base n (k + 1) _ (by omega), Res.bind_ok, hd]
    simp only [List.take_succ_cons, List.foldl_cons]

/-- The payload loop stops at the first byte that does not exist. -/
theorem readPayload_truncated (rest : List Byte) (base : Nat) : ∀ (n k : Nat) (f : FrmRegs), k ≤ rest.length →
    rest.length < k + n →
      ∃ f', readPayload f rest base k n = .raise f' .truncatedInputError (base + rest.length) ∧ f'.off = f.off
  | 0, k, f, h, h' => by omega
  | n + 1, k, f, h, h' => by
    by_cases hk : k < rest.length
    · obtain ⟨f', hf, ho⟩ :=
        readPayload_truncated rest base n (k + 1) { f with csum := addToChecksum f.csum rest[k] } (by omega) (by omega)
      exact ⟨f', by rw [readPayload, memRead, List.getElem?_eq_getElem hk, Res.bind_ok, hf, Res.bind_raise], ho⟩
    · have : k = rest.length := by omega
      subst this
      exact ⟨f, by simp [readPayload, memRead], rfl⟩

/-! ### Scans of the demodulator -/

theorem highRun_le (cfg : Config) (d : DemRegs) : ∀ rest : List Sample, highRun cfg d rest ≤ rest.length
  | [] => Nat.le_refl 0
  | v :: r => by
    have := highRun_le cfg d r
    unfold highRun
    split
    · simp; omega
    · simp

theorem lowSkip_le (cfg : Config) (d : DemRegs) : ∀ rest : List Sample, lowSkip cfg d rest ≤ rest.length
  | [] => Nat.le_refl 0
  | v :: r => by
    have := lowSkip_le cfg d r
    unfold lowSkip
    split
    · simp; omega
    · simp

/-- The low-run skip depends on the registers only through the thresholds of step 1 (R133). -/
theorem lowSkip_congr {cfg : Config} {d d' : DemRegs} (hn : d.wn = d'.wn) (hs : d.wsum = d'.wsum)
    (hp : d.wspan = d'.wspan) : ∀ rest : List Sample, lowSkip cfg d rest = lowSkip cfg d' rest
  | [] => rfl
  | v :: r => by
    have hv : belowTrigger cfg d v = belowTrigger cfg d' v := by unfold belowTrigger; rw [hn, hs, hp]
    rw [lowSkip, lowSkip, hv, lowSkip_congr hn hs hp r]

/-- The span of a window that has samples (R133). -/
theorem windowSpan_of_ne_nil (S : List Sample) (i : Nat) {w : List Sample} (h : w ≠ []) :
    windowSpan S i w = (maxSample w - minSample w).toNat := if_neg h

/-- The span of a window of no samples is the free value, within the width of `DEM.WSPAN`. -/
theorem windowSpan_nil (S : List Sample) (i : Nat) :
    windowSpan S i [] = (Config.freeSpan S i).toNat ∧ windowSpan S i [] ≤ 65535 :=
  ⟨rfl, Nat.le_of_lt_succ (Config.freeSpan S i).isLt⟩

section MeasureWindow
variable (cfg : Config) (S : List Sample) (d : DemRegs)
@[simp] theorem measureWindow_idx : (measureWindow cfg S d).idx = d.idx := rfl
@[simp] theorem measureWindow_anchor : (measureWindow cfg S d).anchor = d.anchor := rfl
@[simp] theorem measureWindow_runs : (measureWindow cfg S d).runs = d.runs := rfl
@[simp] theorem skipLow_runs : (skipLow cfg S d).runs = d.runs := rfl
@[simp] theorem skipLow_idx : (skipLow cfg S d).idx = d.idx + lowSkip cfg d (S.drop d.idx) := rfl
@[simp] theorem forceProgress_runs (start : Nat) : (forceProgress start d).runs = d.runs := by
  unfold forceProgress; split <;> rfl
end MeasureWindow

/-! ### Blocks -/

/-- What a decoded block says about the bytes it was read from (R87). -/
theorem decodeBlockAt_eq_ok {cfg : Config} {f0 f : FrmRegs} {base : Nat} {rest : List Byte} {r : TapeBlock × Nat}
    (h : decodeBlockAt cfg f0 base rest = .ok f r) :
    ∃ len : Byte, rest[0]? = some cfg.leaderByte ∧ rest[1]? = some cfg.syncByte ∧ rest[2]? = some r.1.blockType ∧
      rest[3]? = some len ∧ rest[4 + len.toNat]? = some r.1.checksum ∧ 6 + len.toNat ≤ rest.length ∧
      r.1.payload = (rest.drop 4).take len.toNat ∧ r.1.payload.length = len.toNat ∧ r.2 = 6 + len.toNat ∧
      f.off = base + 6 + len.toNat ∧ f.type = r.1.blockType ∧ f.len = len ∧ f.csum = r.1.checksum := by
  unfold decodeBlockAt at h
  obtain ⟨_, b0, hm0, g0⟩ := Res.bind_eq_ok.mp h
  obtain ⟨rfl, h0⟩ := memRead_eq_ok.mp hm0
  split at g0
  · cases g0
  rename_i hb0
  obtain ⟨_, b1, hm1, g1⟩ := Res.bind_eq_ok.mp g0
  obtain ⟨rfl, h1⟩ := memRead_eq_ok.mp hm1
  split at g1
  · cases g1
  rename_i hb1
  obtain ⟨_, ty, hm2, g2⟩ := Res.bind_eq_ok.mp g1
  obtain ⟨rfl, h2⟩ := memRead_eq_ok.mp hm2
  obtain ⟨_, len, hm3, g3⟩ := Res.bind_eq_ok.mp g2
  obtain ⟨rfl, h3⟩ := memRead_eq_ok.mp hm3
  obtain ⟨f5, payload, hp, g4⟩ := Res.bind_eq_ok.mp g3
  obtain ⟨f6, c, hm4, g5⟩ := Res.bind_eq_ok.mp g4
  obtain ⟨e6, h4⟩ := memRead_eq_ok.mp hm4
  split at g5
  · cases g5
  rename_i hc
  obtain ⟨f7, t, hm5, g6⟩ := Res.bind_eq_ok.mp g5
  obtain ⟨e7, h5⟩ := memRead_eq_ok.mp hm5
  have hlen : 5 + len.toNat < rest.length := (List.getElem?_eq_some_iff.mp h5).1
  rw [readPayload_ok rest base len.toNat 4 _ (by omega)] at hp
  simp only [ne_eq, Decidable.not_not] at hb0 hb1 hc
  subst e7 e6
  cases hp
  cases g6
  subst hb0 hb1 hc
  refine ⟨len, h0, h1, h2, h3, h4, by omega, rfl, ?_, rfl, rfl, rfl, rfl, rfl⟩
  simp; omega

/-- What interpreting a block does when it does not refuse (R104). -/
theorem interpretBlock_eq_ok {cfg : Config} {u u' : FrmSeq} {blk : TapeBlock} {r : Option (NamefileHeader × List Byte)}
    (h : interpretBlock cfg u blk = .ok u' r) :
    u'.frm = u.frm ∧ u'.seq.off = u.seq.off ∧ u'.seq.pos = u.seq.pos ∧
      ((∃ hl : blk.payload.length = 15, blk.blockType = 0x00 ∧ r = none ∧ u.seq.hdrValid = false ∧
          u'.seq.hdrValid = true ∧ u'.seq.hdr = ⟨blk.payload.toArray, hl⟩ ∧ u'.seq.code = u.seq.code) ∨
        (blk.blockType = 0x01 ∧ r = none ∧ u.seq.hdrValid = true ∧ 0 < blk.payload.length ∧
          u'.seq = { u.seq with code := u.seq.code ++ blk.payload }) ∨
        (blk.blockType = 0xFF ∧ u.seq.hdrValid = true ∧ blk.payload = [] ∧ u' = u ∧
          r = some (parseNamefile u.seq.hdr, u.seq.code))) := by
  unfold interpretBlock at h
  split at h
  · split at h
    · cases h
    split at h
    · rename_i hty hv hl
      cases h
      exact ⟨rfl, rfl, rfl, .inl ⟨hl.trans cfg.namefileLen_eq, hty, rfl, by simpa using hv, rfl, rfl, rfl⟩⟩
    · cases h
  split at h
  · split at h
    · cases h
    split at h
    · cases h
    rename_i hty hv hl
    cases h
    exact ⟨rfl, rfl, rfl, .inr (.inl ⟨hty, rfl, by simpa using hv, Nat.pos_of_ne_zero hl, rfl⟩)⟩
  split at h
  · split at h
    · cases h
    split at h
    · cases h
    rename_i hty hv hl
    cases h
    exact ⟨rfl, rfl, rfl, .inr (.inr ⟨hty, by simpa using hv,
      List.eq_nil_of_length_eq_zero (by simpa using hl), rfl, rfl⟩)⟩
  · cases h

end Sys2Proof.Machine
end

