-- ==== Sys2Proof/Laws/PerInstr.lean ====
section
/-! SUPPORT. Per-instruction family `TableRow`: the encoding of an instruction carries its own row's match value of
spec/opcode_table.json, at the default lead-in and sync bytes. -/

namespace Sys2Proof.Laws

/-- The match value of the row of an instruction (spec/opcode_table.json). -/
def tableMatch : Instr → Nat
  | .encblk _ _ => 0x01
  | .decblk _ _ => 0x02
  | .asm _ _ => 0x03
  | .disasm _ => 0x04
  | .cyclen _ => 0x10
  | .bldcyc _ => 0x11
  | .encbyte _ => 0x12
  | .encstrm _ => 0x13
  | .silence _ => 0x14
  | .modul _ _ => 0x15
  | .demod _ => 0x20
  | .encaud _ => 0x30
  | .decaud _ => 0x31
  | .namefile _ => 0x553C00
  | .data _ => 0x553C01
  | .eof _ => 0x553CFF

/-- The number a table row is matched against: the code byte, or the first three bytes with the first most significant
(30_encoding.md R79). -/
def selector : Encoded → Nat
  | .op code _ => code.toNat
  | .blk bytes => (bytes.take 3).foldl (fun n b => n * 256 + b.toNat) 0

/-- The encoding of the instruction carries its row's match value. -/
def TableRow.Statement (i : Instr) : Prop :=
  ∀ cfg : Config, cfg.leaderByte = 0x55 → cfg.syncByte = 0x3C → selector (encode cfg i) = tableMatch i

theorem TableRow.encblk (t p) : TableRow.Statement (.encblk t p) := fun _ _ _ => rfl
theorem TableRow.decblk (b o) : TableRow.Statement (.decblk b o) := fun _ _ _ => rfl
theorem TableRow.asm (n c) : TableRow.Statement (.asm n c) := fun _ _ _ => rfl
theorem TableRow.disasm (t) : TableRow.Statement (.disasm t) := fun _ _ _ => rfl
theorem TableRow.cyclen (b) : TableRow.Statement (.cyclen b) := fun _ _ _ => rfl
theorem TableRow.bldcyc (n) : TableRow.Statement (.bldcyc n) := fun _ _ _ => rfl
theorem TableRow.encbyte (b) : TableRow.Statement (.encbyte b) := fun _ _ _ => rfl
theorem TableRow.encstrm (b) : TableRow.Statement (.encstrm b) := fun _ _ _ => rfl
theorem TableRow.silence (q) : TableRow.Statement (.silence q) := fun _ _ _ => rfl
theorem TableRow.modul (p q) : TableRow.Statement (.modul p q) := fun _ _ _ => rfl
theorem TableRow.demod (S) : TableRow.Statement (.demod S) := fun _ _ _ => rfl
theorem TableRow.encaud (t) : TableRow.Statement (.encaud t) := fun _ _ _ => rfl
theorem TableRow.decaud (S) : TableRow.Statement (.decaud S) := fun _ _ _ => rfl
theorem TableRow.namefile (body) : TableRow.Statement (.namefile body) := fun _ h₁ h₂ => by
  simp [selector, encode, tableMatch, h₁, h₂]
theorem TableRow.data (body) : TableRow.Statement (.data body) := fun _ h₁ h₂ => by
  simp [selector, encode, tableMatch, h₁, h₂]
theorem TableRow.eof (body) : TableRow.Statement (.eof body) := fun _ h₁ h₂ => by
  simp [selector, encode, tableMatch, h₁, h₂]

end Sys2Proof.Laws
end

