-- ==== Sys2Proof/Tests/Slice0.lean ====
section
/-! SUPPORT. Tests: well-formedness refusals, the decoding of every row from a word written out by hand, vectors of
spec/95_test_vectors.md, and for every statement with hypotheses a state and operands that meet them. -/

namespace Sys2Proof.Tests

open Sys2Proof Sys2Proof.Machine

/-- The default configuration with the addresses of spec/95_test_vectors.md P1. -/
def cfg0 : Config := Config.defaultWith 0 0

/-- A state at rest. -/
def rest0 : State := { State.reset with cfg := cfg0 }

/-- A state with a call in hand. -/
def calling (code : Byte) (args : List Arg) : State := { rest0 with request := .call code args }

/-- A state walking an image from its start. -/
def walking (image : List Byte) : State := { rest0 with request := .walk image }

/-- A state in whose walk a Namefile block has been seen. -/
def named : State := { rest0 with work := { rest0.work with seq := { rest0.work.seq with hdrValid := true } } }

/-- What the caller sees of an outcome: `ERR`, `info`, the result; `none` where the step stops. -/
def seen (o : Host.Outcome State Fault Refusal) : Option (Byte × Nat × Result) :=
  match o with
  | .next t => some (t.err, t.info, t.result)
  | .fault _ => none
  | .refused _ => none

/-- The refusal of an outcome. -/
def refusal (o : Host.Outcome State Fault Refusal) : Option Refusal :=
  match o with
  | .next _ => none
  | .fault _ => none
  | .refused why => some why

/-- The state an outcome goes to, if any. -/
def after (o : Host.Outcome State Fault Refusal) : Option State :=
  match o with
  | .next t => some t
  | .fault _ => none
  | .refused _ => none

/-- A sample buffer of runs: `n` samples of value `v` for every pair. -/
def runsOf (l : List (Nat × Int)) : List Sample := l.flatMap fun p => List.replicate p.1 p.2

/-! ### Well-formedness: an ill-formed term for each check -/

theorem test_wf_refuses_sample_above_range : (Instr.demod [0, 32768]).wf = false := by decide
theorem test_wf_refuses_sample_below_range : (Instr.decaud [-32769]).wf = false := by decide
theorem test_wf_refuses_long_namefile_body : (Instr.namefile [0, 0, 0, 0]).wf = false := by decide
theorem test_wf_refuses_long_data_body : (Instr.data [1, 7, 9, 0x55, 0]).wf = false := by decide
theorem test_wf_refuses_long_eof_body : (Instr.eof [0, 0xFF, 0x55, 0x55]).wf = false := by decide
theorem test_wf_accepts_extremes : (Instr.demod [-32768, 32767]).wf = true := by decide

/-! ### Decoding: every row of the table, its word written out from 30_encoding.md R62 and R66 -/

theorem test_decode_encblk : decodeOp 0x01 [.byte 0x7E, .bytes [1, 2]] = .ok (.encblk 0x7E [1, 2]) := by decide
theorem test_decode_decblk : decodeOp 0x02 [.bytes [0x55], .nat 3] = .ok (.decblk [0x55] 3) := by decide
theorem test_decode_asm : decodeOp 0x03 [.bytes [0x68], .bytes [0x41]] = .ok (.asm [0x68] [0x41]) := by decide
theorem test_decode_disasm : decodeOp 0x04 [.bytes [0x55]] = .ok (.disasm [0x55]) := by decide
theorem test_decode_cyclen : decodeOp 0x10 [.bit true] = .ok (.cyclen true) := by decide
theorem test_decode_bldcyc : decodeOp 0x11 [.nat 20] = .ok (.bldcyc 20) := by decide
theorem test_decode_encbyte : decodeOp 0x12 [.byte 0xA5] = .ok (.encbyte 0xA5) := by decide
theorem test_decode_encstrm : decodeOp 0x13 [.bytes [1, 2]] = .ok (.encstrm [1, 2]) := by decide
theorem test_decode_silence :
    decodeOp 0x14 [.duration Config.halfSecond] = .ok (.silence Config.halfSecond) := by decide
theorem test_decode_modul : decodeOp 0x15 [.bytes [1], .bytes [2]] = .ok (.modul [1] [2]) := by decide
theorem test_decode_demod : decodeOp 0x20 [.samples [8000, -8000]] = .ok (.demod [8000, -8000]) := by decide
theorem test_decode_encaud : decodeOp 0x30 [.bytes [0x55]] = .ok (.encaud [0x55]) := by decide
theorem test_decode_decaud : decodeOp 0x31 [.samples [1]] = .ok (.decaud [1]) := by decide
theorem test_decode_namefile : decodeBlk cfg0 [0x55, 0x3C, 0x00, 0x01, 0x20, 0x21, 0x55, 0x99] =
    .ok (.namefile [0x01, 0x20, 0x21, 0x55]) := by decide
theorem test_decode_data : decodeBlk cfg0 [0x55, 0x3C, 0x01, 0x02, 0x41, 0x42, 0x86, 0x55, 0x55, 0x3C] =
    .ok (.data [0x02, 0x41, 0x42, 0x86, 0x55]) := by decide
theorem test_decode_eof : decodeBlk cfg0 [0x55, 0x3C, 0xFF, 0x00, 0xFF, 0x55] =
    .ok (.eof [0x00, 0xFF, 0x55]) := by decide
theorem test_decode_rejects_code : decodeOp 0x05 [] = .error (.invalidCode 0x05) := by decide
theorem test_decode_rejects_arguments : decodeOp 0x01 [.bytes []] = .error (.illTyped 0x01) := by decide
theorem test_decode_rejects_sample : decodeOp 0x20 [.samples [40000]] = .error (.illTyped 0x20) := by decide
theorem test_decode_rejects_lead_in : decodeBlk cfg0 [0x54, 0x3C, 0x01] = .error .badLeadIn := by decide
theorem test_decode_rejects_sync : decodeBlk cfg0 [0x55, 0x3D, 0x01] = .error .badSync := by decide
theorem test_decode_rejects_short : decodeBlk cfg0 [0x55, 0x3C] = .error .cutShort := by decide
theorem test_decode_rejects_reserved : decodeBlk cfg0 [0x55, 0x3C, 0x02, 0] = .error (.reservedType 2) := by decide

theorem test_table_word_namefile : decodeTableWord 24 0x553C00 = some (.namefile [0, 0, 0]) := by decide
theorem test_table_word_eof : decodeTableWord 24 0x553CFF = some (.eof [0, 0, 0]) := by decide
theorem test_table_word_unknown : decodeTableWord 8 0x16 = none := by decide
theorem test_fetch_word_runs_cyclen :
    seen (step (State.reset.withFetchWord 8 0x10)) = some (0, 0, .sampleCount 40) := by decide
/-- DATA with zeros after its type byte: the stored checksum 0 is not 1 (R87). -/
theorem test_fetch_word_runs_data :
    seen (step (State.reset.withFetchWord 24 0x553C01)) = some (2, 4, .void) := by decide
theorem test_fetch_word_runs_namefile :
    refusal (step (State.reset.withFetchWord 24 0x553C00)) = some .namefileLength := by decide

/-! ### Vectors of spec/95_test_vectors.md -/

/-- V12. -/
theorem test_encblk_reserved_type : seen (exec (.encblk 0x7E [0x80, 0x80]) rest0) =
    some (0, 0, .bytes [0x55, 0x3C, 0x7E, 0x02, 0x80, 0x80, 0x80, 0x55]) := by decide
/-- V14. -/
theorem test_encblk_too_large : seen (exec (.encblk 0x01 (List.replicate 256 0)) rest0) = some (3, 256, .void) := by
  decide +kernel
/-- V17. -/
theorem test_decblk_trailer_free : seen (exec (.decblk [0x55, 0x3C, 0x01, 0x02, 0x41, 0x42, 0x86, 0x00] 0) rest0) =
    some (0, 0, .block ⟨0x01, [0x41, 0x42], 0x86⟩ 8) := by decide
/-- V19. -/
theorem test_decblk_checksum_before_trailer :
    seen (exec (.decblk [0x55, 0x3C, 0x01, 0x02, 0x41, 0x42, 0x84] 0) rest0) = some (2, 6, .void) := by decide
/-- V25, the length of the image. -/
theorem test_asm_empty_program : (seen (exec (.asm [0x68, 0x69] []) rest0)).map
    (fun r => match r.2.2 with | .bytes T => T.length | _ => 0) = some 283 := by decide +kernel
/-- V28: no leaders, bytes after the EndOfFile block. -/
theorem test_disasm_without_leaders : seen (exec (.disasm
    ([0x55, 0x3C, 0x00, 0x0F, 0x48, 0x49, 0x20, 0x20, 0x20, 0x20, 0x20, 0x20, 0, 0, 1, 0, 0, 0, 0, 0x61, 0x55] ++
     [0x55, 0x3C, 0x01, 0x01, 0x09, 0x0B, 0x55] ++ [0x55, 0x3C, 0xFF, 0x00, 0xFF, 0x55] ++ [1, 2, 3])) rest0) =
    some (0, 0, .program ⟨[0x48, 0x49, 0x20, 0x20, 0x20, 0x20, 0x20, 0x20], 0, 0, 1, 0, 0⟩ [0x09]) := by
  decide +kernel
/-- V26. -/
theorem test_disasm_leader_only : seen (exec (.disasm (List.replicate 10 0x55)) rest0) = some (4, 10, .void) := by decide
/-- V40. -/
theorem test_cyclen_zero : seen (exec (.cyclen false) rest0) = some (0, 0, .sampleCount 40) := by decide
theorem test_cyclen_one : seen (exec (.cyclen true) rest0) = some (0, 0, .sampleCount 20) := by decide
/-- V42. -/
theorem test_bldcyc_odd : seen (exec (.bldcyc 3) rest0) = some (0, 0, .samples [8000, 8000, -8000]) := by decide
/-- V43: 0xA5 is `S L S L L S L S`. -/
theorem test_encbyte_a5 : seen (exec (.encbyte 0xA5) rest0) = some (0, 0, .samples (runsOf
    [(10, 8000), (10, -8000), (20, 8000), (20, -8000), (10, 8000), (10, -8000), (20, 8000), (20, -8000),
     (20, 8000), (20, -8000), (10, 8000), (10, -8000), (20, 8000), (20, -8000), (10, 8000), (10, -8000)])) := by
  decide +kernel
/-- V44. -/
theorem test_encstrm_empty : seen (exec (.encstrm []) rest0) = some (0, 0, .samples []) := by decide
/-- V45. -/
theorem test_silence_one_period : seen (exec (.silence { num := 1, den := 48000, den_nz := by decide, reduced := by decide }) rest0) =
    some (0, 0, .samples [0]) := by decide
/-- U6. -/
theorem test_silence_negative :
    refusal (exec (.silence { num := -1, den := 3, den_nz := by decide, reduced := by decide }) rest0) = some .negativeDuration := by decide
/-- V47, the first samples. -/
theorem test_modul_empty_parts : (seen (exec (.modul [] []) rest0)).map
    (fun r => match r.2.2 with | .samples S => S.take 3 | _ => []) = some [0, 0, 0] := by decide +kernel
/-- V30. -/
theorem test_demod_a5 : seen (exec (.demod (encodeByte cfg0 0xA5).2) rest0) =
    some (0, 0, .demodulated [0xA5] 0) := by decide +kernel
/-- V39a. -/
theorem test_demod_truncated : seen (exec (.demod [-8000, 8000]) rest0) = some (6, 0, .void) := by decide
/-- V54's shape on a 1-byte buffer: 320 samples of cycles come first. -/
theorem test_encaud_short : (seen (exec (.encaud [0x00]) rest0)).map
    (fun r => match r.2.2 with | .samples S => (S.take 321).drop 319 | _ => []) = some [-8000, 0] := by decide +kernel
/-- V51 on a shorter buffer. -/
theorem test_decaud_silence : seen (exec (.decaud (List.replicate 20 0)) rest0) = some (5, 0, .void) := by decide +kernel
/-- V29d. -/
theorem test_namefile_second : refusal (exec (.namefile [0, 0, 0]) named) = some .secondNamefile := by decide
theorem test_data_appends : (after (exec (.data [0x02, 0x41, 0x42, 0x86, 0x55]) named)).map
    (fun t => (t.work.seq.off, t.work.seq.code)) = some (8, [0x41, 0x42]) := by decide
theorem test_eof_ends : (after (exec (.eof [0x00, 0xFF, 0x55]) named)).map
    (fun t => (t.request, t.work.seq.off)) = some (.idle, 6) := by decide
/-- V21: big-endian addresses. -/
theorem test_namefile_bytes : makeNamefile (Config.defaultWith 0x4346 0x1234) [0x4C, 0x6F, 0x6E, 0x67, 0x50, 0x72, 0x6F, 0x67, 0x72] =
    [0x4C, 0x4F, 0x4E, 0x47, 0x50, 0x52, 0x4F, 0x47, 0, 0, 1, 0x43, 0x46, 0x12, 0x34] := by decide

/-! ### Witnesses: states and operands that meet the hypotheses of the statements -/

/-- A Namefile block and an EndOfFile block (V28's bytes), 27 bytes. -/
def shortImage : List Byte :=
  [0x55, 0x3C, 0x00, 0x0F, 0x48, 0x49, 0x20, 0x20, 0x20, 0x20, 0x20, 0x20, 0, 0, 1, 0, 0, 0, 0, 0x61, 0x55,
   0x55, 0x3C, 0xFF, 0x00, 0xFF, 0x55]

/-- A legal configuration with cycles of 2 and 4 samples, to keep sample buffers short. -/
def cfgSmall : Config := { cfg0 with sampleRate := 2400, freqZero := 600, freqOne := 1200, lookahead := 0, legal := by decide }

/-- A legal configuration with `FREQ_ONE` above `SAMPLE_RATE`: the short cycle has no samples. -/
def cfgNoWindow : Config := { cfg0 with sampleRate := 2400, freqOne := 4800, legal := by decide }

/-- `cfg0` with another `MAX_PAYLOAD`. -/
def cfg14 : Config := { cfg0 with maxPayload := 14, legal := by decide }
def cfg15 : Config := { cfg0 with maxPayload := 15, legal := by decide }

theorem witness_StepKeepsInvariant : (walking [0x55]).Inv ∧ (after (step (walking [0x55]))).isSome = true :=
  ⟨⟨by decide, by decide, by decide, trivial, by decide, fun _ => rfl⟩, by decide⟩
theorem witness_StepKeepsConfiguration : (after (step (calling 0x10 [.bit true]))).isSome = true := by decide
theorem witness_StepRunsDecodedInstruction :
    (calling 0x10 [.bit true]).request = .call 0x10 [.bit true] ∧ decodeOp 0x10 [.bit true] = .ok (.cyclen true) ∧
    (walking shortImage).request = .walk shortImage ∧
    (decodeBlk (walking shortImage).cfg (shortImage.drop (walking shortImage).work.seq.off)).toOption.isSome = true := by
  decide
theorem witness_IdleStepChangesNothing : rest0.request = .idle := by decide
theorem witness_UnknownCodeChangesNothing :
    (∀ code ∈ ([0x00, 0x05, 0x0F, 0x16, 0x1F, 0x21, 0x2F, 0x32, 0xFF] : List Byte),
      code ∉ ([0x01, 0x02, 0x03, 0x04, 0x10, 0x11, 0x12, 0x13, 0x14, 0x15, 0x20, 0x30, 0x31] : List Byte)) ∧
    (calling 0x05 []).request = .call 0x05 [] := by decide
theorem witness_IllTypedCallFaults : (calling 0x04 [.nat 1]).request = .call 0x04 [.nat 1] ∧
    decodeOp 0x04 [.nat 1] = .error (.illTyped 0x04) := by decide
theorem witness_OutcomeIgnoresEarlierState : (Instr.disasm []).isOperation = true ∧ rest0.cfg = named.cfg ∧
    rest0 ≠ named := ⟨rfl, rfl, by decide⟩
theorem witness_FailureIsTaken : (Instr.decblk [] 0).isOperation = true ∧
    (after (exec (.decblk [] 0) rest0)).map (fun t => t.err ≠ 0) = some True := by
  refine ⟨rfl, ?_⟩
  simp [after, exec, execDecblk, decodeBlock, decodeBlockAt, memRead, Res.bind, State.conclude, State.takeFailure,
    Failure.code]
theorem witness_FailureIsTaken_block : (Instr.data []).isOperation = false ∧
    (after (exec (.data []) rest0)).map (fun t => (t.err, t.request)) = some (6, .idle) := by decide
theorem witness_FailureIsTaken_walk : (walking [0x54]).request = .walk [0x54] ∧
    (after (step (walking [0x54]))).map (fun t => (t.err, t.request)) = some (1, .idle) := by decide
theorem witness_FailureTableIsRespected : rest0.cfg = Config.defaultWith 0 0 ∧ (Instr.demod []).isOperation = true :=
  ⟨rfl, rfl⟩
theorem witness_UnusedRegistersUnchanged_disasm :
    (after (exec (.disasm shortImage) rest0)).map (fun t => t.err) = some 0 := by decide +kernel
theorem witness_UnusedRegistersUnchanged_block : (Instr.eof [0x00, 0xFF, 0x55]).isOperation = false ∧
    (after (exec (.eof [0x00, 0xFF, 0x55]) named)).map (fun t => t.err) = some 0 := by decide
theorem witness_UnusedRegistersUnchanged_decblk :
    (after (exec (.decblk [0x55, 0x3C, 0xFF, 0x00, 0xFF, 0x55] 0) rest0)).map (fun t => t.err) = some 0 := by decide
theorem witness_UnusedRegistersUnchanged_demod :
    (after (exec (.demod [8000, -8000]) rest0)).map (fun t => t.err) = some 0 := by decide
theorem witness_UnusedRegistersUnchanged_decaud :
    (after (exec (.decaud (encodeStream cfgSmall Work.reset.mod shortImage).2) { rest0 with cfg := cfgSmall })).map
      (fun t => t.err) = some 0 := by decide +kernel

theorem witness_DecodeOfEncode : (Instr.demod [-32768]).wf = true ∧ (Instr.data [1, 7, 9, 0x55]).wf = true ∧
    (Instr.eof []).wf = true := by decide
theorem witness_EncodeOfDecode : (decodeOp 0x20 [.samples [32767]]).toOption.isSome = true ∧
    (decodeBlk cfg0 [0x55, 0x3C, 0x01]).toOption.isSome = true := by decide
theorem witness_ChecksumIsByteSum : ([1, 2] : List Byte).Perm [2, 1] ∧ ([1, 2] : List Byte).length = [0, 3].length ∧
    Spec.byteSum [1, 2] = Spec.byteSum [0, 3] := ⟨by decide, by decide, by decide⟩
theorem witness_DecblkOfEncodedBlock : ([] : List Byte).length ≤ rest0.cfg.maxPayload ∧
    (List.replicate 255 (0 : Byte)).length ≤ rest0.cfg.maxPayload := by decide +kernel
theorem witness_TrailerIsNotCompared_length : ([] : List Byte).length ≤ 255 ∧
    (List.replicate 255 (0 : Byte)).length ≤ 255 := by decide +kernel
theorem witness_TrailerIsNotCompared : ([] : List Byte).length ≤ rest0.cfg.maxPayload ∧
    (List.replicate 255 (0 : Byte)).length ≤ rest0.cfg.maxPayload := by decide +kernel
theorem witness_SingleByteChangeDetected : ([7] : List Byte).length ≤ 255 ∧ 0 < ([7] : List Byte).length ∧
    ([7] : List Byte)[0]? ≠ some 8 := by decide

theorem witness_AsmOutcome : 15 ≤ ({ rest0 with cfg := cfg15 } : State).cfg.maxPayload := by decide
theorem witness_AsmFailsWhereHeaderDoesNotFit : ({ rest0 with cfg := cfg14 } : State).cfg.maxPayload < 15 := by decide
theorem witness_AsmImageLength : rest0.cfg = Config.defaultWith 0 0 ∧
    (after (exec (.asm [] []) rest0)).map (fun t => match t.result with | .bytes _ => true | _ => false) = some true :=
  ⟨rfl, by decide +kernel⟩
theorem witness_NamefileBlockOutcome : rest0.work.seq.hdrValid = false := by decide
theorem witness_DataBlockOutcome : named.work.seq.hdrValid = true ∧ 1 ≤ ([7] : List Byte).length ∧
    ([7] : List Byte).length ≤ 255 ∧ 1 ≤ (List.replicate 255 (0 : Byte)).length ∧
    (List.replicate 255 (0 : Byte)).length ≤ 255 := by decide +kernel
theorem witness_EofBlockOutcome : named.work.seq.hdrValid = true := by decide
theorem witness_BlockRefusals : named.work.seq.hdrValid = true ∧ rest0.work.seq.hdrValid = false ∧
    ([7] : List Byte).length ≠ 15 ∧ (List.replicate 14 (0 : Byte)).length ≠ 15 ∧
    (List.replicate 16 (0 : Byte)).length ≠ 15 ∧ ([7] : List Byte) ≠ [] ∧
    (List.replicate 255 (0 : Byte)).length ≤ 255 := by decide +kernel
theorem witness_BlockRefusals_reserved :
    (∀ type ∈ ([0x02, 0xFE] : List Byte), type ≠ 0x00 ∧ type ≠ 0x01 ∧ type ≠ 0xFF ∧
      (Spec.blockWithTrailer cfg0 type [7] 0 ++ [1]).drop (walking (Spec.blockWithTrailer cfg0 type [7] 0)).work.seq.off =
        Spec.blockWithTrailer cfg0 type [7] 0 ++ [1]) := by decide
theorem witness_BlockFailuresPropagate : (9 : Byte) ≠ Spec.checksum 0x00 [] ∧ (9 : Byte) ≠ Spec.checksum 0x01 [] ∧
    (9 : Byte) ≠ Spec.checksum 0xFF [] ∧ 0 ≤ ([] : List Byte).length + 2 ∧ ([] : List Byte).length ≤ 255 := by decide
/-- The longest cut, `k = payload.length + 2`: all but the trailer. -/
theorem witness_BlockFailuresPropagate_cut : ([7] : List Byte).length + 2 ≤ ([7] : List Byte).length + 2 ∧
    (Spec.body 0x01 [7] 0).take (([7] : List Byte).length + 2) = [1, 7, 9] ∧
    seen (exec (.data [1, 7, 9]) named) = some (6, 6, .void) := by decide
/-- R104's corner case: `55 3C` as the last two bytes. -/
theorem witness_BlockFailuresPropagate_sync : (walking [0x55, 0x3C]).request = .walk [0x55, 0x3C] ∧
    ([0x55, 0x3C] : List Byte).drop (walking [0x55, 0x3C]).work.seq.off =
      [(walking [0x55, 0x3C]).cfg.leaderByte, (walking [0x55, 0x3C]).cfg.syncByte] ∧
    seen (step (walking [0x55, 0x3C])) = some (6, 2, .void) := by decide
/-- Reserved types at both ends of their range: a wrong checksum, and a block cut before its trailer. -/
theorem witness_BlockFailuresPropagate_reserved :
    ∀ type ∈ ([0x02, 0xFE] : List Byte), Spec.checksum type [7] + 1 ≠ Spec.checksum type [7] ∧
      seen (step (walking [0x55, 0x3C, type, 1, 7, Spec.checksum type [7] + 1, 0x55])) = some (2, 5, .void) ∧
      [0x55, 0x3C, type] ++ (Spec.body type [7] 0).take 3 = [0x55, 0x3C, type, 1, 7, Spec.checksum type [7]] ∧
      seen (step (walking [0x55, 0x3C, type, 1, 7, Spec.checksum type [7]])) = some (6, 6, .void) := by decide
theorem witness_WalkBetweenBlocks_end : (walking []).request = .walk [] ∧
    ([] : List Byte).length ≤ (walking []).work.seq.off := by decide
theorem witness_WalkBetweenBlocks_frame : (walking [0x54]).request = .walk [0x54] ∧
    ([0x54] : List Byte)[(walking [0x54]).work.seq.off]? = some 0x54 ∧ (0x54 : Byte) ≠ (walking [0x54]).cfg.leaderByte := by
  decide
theorem witness_WalkBetweenBlocks_leader : (walking [0x55]).request = .walk [0x55] ∧
    ([0x55] : List Byte)[(walking [0x55]).work.seq.off]? = some (walking [0x55]).cfg.leaderByte ∧
    ([0x55] : List Byte)[(walking [0x55]).work.seq.off + 1]? ≠ some (walking [0x55]).cfg.syncByte := by decide
theorem witness_DisasmOfLeaderOnly : rest0.cfg.leaderByte ≠ rest0.cfg.syncByte := by decide
theorem witness_DisasmOfImage : rest0.cfg.leaderByte ≠ rest0.cfg.syncByte ∧
    ∀ p ∈ ([[7], [1, 2]] : List (List Byte)), 1 ≤ p.length ∧ p.length ≤ 255 := by decide
theorem witness_DisasmOfAsm : rest0.cfg = Config.defaultWith 0 0 ∧ named.cfg = Config.defaultWith 0 0 := ⟨rfl, rfl⟩

theorem witness_CyclenOutcome : cfg0.freqZero = 1200 ∧ cfg0.freqOne = 2400 := by decide
theorem witness_StreamLengthLaw : rest0.cfg = Config.defaultWith 0 0 := rfl
theorem witness_SilenceOutcome : (0 : Rat) ≤ 0 ∧ (-1 : Rat) < 0 := by norm_num

theorem witness_ComparisonsAreExact : 0 < ({ Work.reset.dem with wn := 1 } : DemRegs).wn ∧ 0 < 1 := by decide
theorem witness_WindowIsMeasured : Work.reset.dem.idx < ([8000, -8000] : List Sample).length ∧
    Work.reset.dem.anchor ≤ Work.reset.dem.idx ∧ cfg0.freqOne ≤ cfg0.sampleRate ∧
    cfgNoWindow.sampleRate < cfgNoWindow.freqOne := by decide
/-- A window of two samples, mean 0, trigger 16000/6: one sample above the mean, then one below the trigger. -/
def measured : DemRegs := { Work.reset.dem with wn := 2, wsum := 0, wspan := 16000 }
theorem witness_ScansStopWhereTheySay : highRun cfg0 measured [8000, -8000] = 1 ∧ lowSkip cfg0 measured [-8000, 8000] = 1 := by
  decide
theorem witness_TurnBookkeeping :
    (match detectTurn cfg0 [8000, -8000] Work.reset.dem with | .ok d _ => d.run | _ => 0) = 1 ∧
    (match detectTurn cfg0 [0, 0] Work.reset.dem with | .ok d _ => d.idx | _ => 0) = 1 := by decide
/-- Both branches, and the smallest run that reaches the end of the buffer (V39a). -/
theorem witness_TurnBookkeeping_cut :
    highRun cfgSmall (measureWindow cfgSmall [-8000, 8000] { Work.reset.dem with idx := 1 }) ([-8000, 8000].drop 1) = 1 ∧
    highRun cfg0 (measureWindow cfg0 [8000, -8000] Work.reset.dem) [8000, -8000] = 1 ∧
    (after (exec (.demod [-8000, 8000]) rest0)).map (fun t => t.err) = some Failure.truncatedInputError.code := by decide
/-- The turns of a buffer of one short cycle begin at index 0 and end at its length. -/
theorem witness_TurnBookkeeping_turns :
    Spec.Turns cfgSmall [8000, -8000] (Spec.demStart Work.reset.dem)
      (match detectTurn cfgSmall [8000, -8000] (Spec.demStart Work.reset.dem) with | .ok d _ => d | _ => Work.reset.dem) ∧
    (match detectTurn cfgSmall [8000, -8000] (Spec.demStart Work.reset.dem) with | .ok d _ => d.idx | _ => 0) = 2 :=
  ⟨.next .none (by decide) (by decide), by decide⟩
/-- With no window every turn is forced on by one sample, and no run is recorded. -/
theorem witness_ConstantBufferHasNoSignal : cfgNoWindow.sampleRate < cfgNoWindow.freqOne ∧
    seen (exec (.demod [8000, -8000, 5]) { rest0 with cfg := cfgNoWindow }) = some (5, 0, .void) := by
  exact ⟨by decide, by simp [seen, exec, execDemod, demodulate, detectRuns, detectTurn, scanHigh, skipLow, forceProgress,
    measureWindow, windowLen, shortCycle, cfgNoWindow, cfg0, rest0, Config.defaultWith, highRun, lowSkip, anyAboveMean,
    aboveMean, belowTrigger, Res.bind, classify, State.conclude, State.takeFailure, Failure.code]⟩
theorem witness_DetectionAdvances : Work.reset.dem.idx < ([8000, -8000] : List Sample).length ∧
    (match detectTurn cfg0 [8000, -8000] Work.reset.dem with | .ok _ _ => true | _ => false) = true := by decide
theorem witness_DemodResultShape :
    (after (exec (.demod (encodeByte cfgSmall 0xA5).2) { rest0 with cfg := cfgSmall })).map (fun t => t.err) = some 0 := by
  decide +kernel
theorem witness_CutHighHalfIsTruncated : rest0.cfg = Config.defaultWith 0 0 ∧ ([0x55] : List Byte) ≠ [] ∧ 1 ≤ 1 :=
  ⟨rfl, by decide, by decide⟩
theorem witness_OneRunPerCycle : rest0.cfg = Config.defaultWith 0 0 ∧ ([0xFF] : List Byte) ≠ [] := ⟨rfl, by decide⟩
theorem witness_DemodRecoversStream : rest0.cfg = Config.defaultWith 0 0 ∧ ([0x55] : List Byte) ≠ [] ∧
    (∃ x ∈ ([0x55] : List Byte), x ≠ 0xFF) ∧ (∀ x ∈ ([0xFF] : List Byte), x = 0xFF) := ⟨rfl, by decide, by decide, by decide⟩
theorem witness_DemodCrossesGap : rest0.cfg = Config.defaultWith 0 0 ∧ 0x20 ≤ (0x20 : Byte).toNat ∧
    ∃ x ∈ ([] ++ (0x20 : Byte) :: [0xFF]), x ≠ 0xFF := ⟨rfl, by decide, by decide⟩
theorem witness_DecaudOfUngappedAudio : rest0.cfg = Config.defaultWith 0 0 ∧
    ∀ p ∈ ([] : List (List Byte)), 1 ≤ p.length ∧ p.length ≤ 255 := ⟨rfl, by decide⟩
theorem witness_DecaudOfEncaudOfAsm : rest0.cfg = Config.defaultWith 0 0 := rfl
theorem witness_ContainerRoundTrip : sampleInRange (-32768) = true ∧ sampleInRange 32767 = true := by decide

end Sys2Proof.Tests
end

/-! Block framer FRM (spec/40_block_framer.md, R85 to R91): the rules of the checksum, of the two ends of an operation
and of the reader of a block, and the obligations O16 to O21. -/

namespace Sys2Proof.Machine

/-! ### The two ends of an operation, as the statements speak of them -/

section Ends
variable {ρ α : Type} (s : State) (put : ρ → Work) (out : α → Result)

theorem State.conclude_ok_delivers (r : ρ) (a : α) : Spec.Delivers (s.conclude put out (.ok r a)) s (put r) (out a) :=
  ⟨_, rfl, State.deliver_err .., State.deliver_result .., State.deliver_work .., State.deliver_cfg ..⟩

theorem State.conclude_raise_fails (r : ρ) (e : Failure) (n : Nat) :
    Spec.Fails (s.conclude put out (.raise r e n)) s e n :=
  ⟨_, rfl, State.takeFailure_err .., State.takeFailure_info .., State.takeFailure_result .., State.takeFailure_cfg ..⟩

end Ends

/-! ### The checksum (R85) -/

/-- The accumulator after some bytes: what it held plus their sum in 8-bit arithmetic. -/
theorem foldl_addToChecksum (c : Byte) (bs : List Byte) : bs.foldl addToChecksum c = c + bs.sum := by
  induction bs generalizing c with
  | nil => simp
  | cons b bs ih => rw [List.foldl_cons, ih, addToChecksum, List.sum_cons, add_assoc]

theorem checksum_eq_sum (type : Byte) (payload : List Byte) :
    checksum type payload = type + BitVec.ofNat 8 payload.length + payload.sum := by
  simp [checksum, foldl_addToChecksum, addToChecksum]

/-- 8-bit addition is addition of unsigned values, keeping the low 8 bits. -/
theorem sum_eq_ofNat_byteSum (bs : List Byte) : bs.sum = BitVec.ofNat 8 (Spec.byteSum bs) := by
  induction bs with
  | nil => rfl
  | cons b bs ih => simp [ih, Spec.byteSum, BitVec.ofNat_add]

theorem checksum_eq_spec (type : Byte) (payload : List Byte) : checksum type payload = Spec.checksum type payload := by
  have hmod (n : Nat) : BitVec.ofNat 8 (n % 256) = BitVec.ofNat 8 n := by bv_omega
  rw [checksum_eq_sum, sum_eq_ofNat_byteSum, Spec.checksum, hmod, BitVec.ofNat_add, BitVec.ofNat_add]
  simp

/-- Settles O16: the accumulator is a sum of 8-bit words, which depends on the bytes' total alone. -/
theorem checksumIsByteSum : Obligations.ChecksumIsByteSum := by
  refine ⟨checksum_eq_spec, fun type p q hperm => ?_, fun type p q hlen hsum => ?_, by decide, by decide⟩
  · rw [checksum_eq_sum, checksum_eq_sum, hperm.length_eq, hperm.sum_eq]
  · rw [checksum_eq_spec, checksum_eq_spec, Spec.checksum, Spec.checksum, hlen, hsum]

/-- A change of one payload byte changes the checksum (R91): subtracting the common terms leaves the two bytes. -/
theorem checksum_set_ne (type : Byte) {payload : List Byte} {k : Nat} {b : Byte} (hk : k < payload.length)
    (hb : payload[k] ≠ b) : Spec.checksum type (payload.set k b) ≠ Spec.checksum type payload := by
  intro h
  rw [← checksum_eq_spec, ← checksum_eq_spec, checksum_eq_sum, checksum_eq_sum, List.length_set,
    add_right_inj, List.sum_set', dif_pos hk, add_eq_left, neg_add_eq_zero] at h
  exact hb h

/-! ### Writing a block (R86) -/

theorem blockBytes_eq_spec (cfg : Config) (type : Byte) (payload : List Byte) :
    blockBytes cfg type payload = Spec.block cfg type payload := by
  rw [blockBytes, checksum_eq_spec, Spec.block, Spec.blockWithTrailer]

theorem encodeBlock_of_le {cfg : Config} {payload : List Byte} (f : FrmRegs) (type : Byte)
    (h : payload.length ≤ cfg.maxPayload) :
    encodeBlock cfg f type payload = .ok (Spec.framed f type payload) (Spec.block cfg type payload) := by
  rw [encodeBlock, if_neg (Nat.not_lt.mpr h), blockBytes_eq_spec, checksum_eq_spec, Spec.framed]

theorem encodeBlock_of_gt {cfg : Config} {payload : List Byte} (f : FrmRegs) (type : Byte)
    (h : cfg.maxPayload < payload.length) :
    encodeBlock cfg f type payload = .raise f .payloadTooLargeError payload.length := if_pos h

theorem exec_encblk (type : Byte) (payload : List Byte) (s : State) :
    exec (.encblk type payload) s =
      s.conclude (fun f => { s.work with frm := f }) .bytes (encodeBlock s.cfg s.work.frm type payload) := rfl

theorem exec_encblk_delivers {s : State} {payload : List Byte} (type : Byte) (h : payload.length ≤ s.cfg.maxPayload) :
    Spec.Delivers (exec (.encblk type payload) s) s { s.work with frm := Spec.framed s.work.frm type payload }
      (.bytes (Spec.block s.cfg type payload)) := by
  rw [exec_encblk, encodeBlock_of_le _ _ h]
  exact s.conclude_ok_delivers _ _ _ _

/-- Settles O17, on the two sides of `MAX_PAYLOAD`. -/
theorem encblkOutcome : Obligations.EncblkOutcome := by
  intro s type payload
  split
  case isTrue h => exact exec_encblk_delivers type h
  case isFalse h =>
    rw [exec_encblk, encodeBlock_of_gt _ _ (Nat.lt_of_not_le h)]
    exact s.conclude_raise_fails _ _ _ _ _

/-! ### Reading a block, byte by byte (R87) -/

section DecodeBlockAt
variable (cfg : Config) (f0 : FrmRegs) (base : Nat)

/-- FRM when the first byte of a block is read. -/
def FrmRegs.start (f : FrmRegs) (base : Nat) : FrmRegs := { f with off := base, csum := 0 }

theorem decodeBlockAt_nil : decodeBlockAt cfg f0 base [] = .raise (f0.start base) .truncatedInputError base := rfl

theorem decodeBlockAt_of_leader_ne {b0 : Byte} (rest : List Byte) (h : b0 ≠ cfg.leaderByte) :
    decodeBlockAt cfg f0 base (b0 :: rest) = .raise (f0.start base) .framingError base := by
  simp [decodeBlockAt, memRead, FrmRegs.start, h]

theorem decodeBlockAt_cut_after_leader :
    decodeBlockAt cfg f0 base [cfg.leaderByte] = .raise (f0.start base) .truncatedInputError (base + 1) := by
  simp [decodeBlockAt, memRead, FrmRegs.start]

theorem decodeBlockAt_of_sync_ne {b1 : Byte} (rest : List Byte) (h : b1 ≠ cfg.syncByte) :
    decodeBlockAt cfg f0 base (cfg.leaderByte :: b1 :: rest) = .raise (f0.start base) .framingError (base + 1) := by
  simp [decodeBlockAt, memRead, FrmRegs.start, h]

theorem decodeBlockAt_cut_after_sync :
    decodeBlockAt cfg f0 base [cfg.leaderByte, cfg.syncByte] =
      .raise (f0.start base) .truncatedInputError (base + 2) := by
  simp [decodeBlockAt, memRead, FrmRegs.start]

theorem decodeBlockAt_cut_after_type (type : Byte) :
    decodeBlockAt cfg f0 base [cfg.leaderByte, cfg.syncByte, type] =
      .raise { f0.start base with type := type, csum := type } .truncatedInputError (base + 3) := by
  simp [decodeBlockAt, memRead, FrmRegs.start, addToChecksum]

/-- What is left to do once the four header bytes are read: the payload loop, the checksum byte, the trailer. -/
theorem decodeBlockAt_header {type len : Byte} {tail rest : List Byte}
    (h : rest = cfg.leaderByte :: cfg.syncByte :: type :: len :: tail) :
    decodeBlockAt cfg f0 base rest =
      (readPayload { csum := type + len, type := type, len := len, off := base } rest base 4 len.toNat).bind
        fun f payload => (memRead f rest base (4 + len.toNat)).bind fun f c =>
          if c ≠ f.csum then .raise f .checksumError (base + 4 + len.toNat) else
          (memRead f rest base (5 + len.toNat)).bind fun f _ =>
            .ok { f with off := base + 6 + len.toNat }
              ({ blockType := type, payload := payload, checksum := c }, 6 + len.toNat) := by
  simp [decodeBlockAt, memRead, addToChecksum, h]

theorem decodeBlockAt_cut_in_payload (type : Byte) {len : Byte} {tail : List Byte} (h : tail.length < len.toNat) :
    ∃ f, decodeBlockAt cfg f0 base (cfg.leaderByte :: cfg.syncByte :: type :: len :: tail) =
      .raise f .truncatedInputError (base + 4 + tail.length) := by
  obtain ⟨f, hf, -⟩ := readPayload_truncated (cfg.leaderByte :: cfg.syncByte :: type :: len :: tail) base len.toNat 4
    { csum := type + len, type := type, len := len, off := base } (by simp) (by simp; omega)
  refine ⟨f, ?_⟩
  rw [decodeBlockAt_header cfg f0 base rfl, hf, Res.bind_raise]
  congr 1
  simp only [List.length_cons]
  omega

/-- A block of R63 as far as its payload, and what follows it in the buffer. -/
def blockFront (cfg : Config) (type : Byte) (payload more : List Byte) : List Byte :=
  [cfg.leaderByte, cfg.syncByte, type, BitVec.ofNat 8 payload.length] ++ payload ++ more

theorem blockFront_eq_cons (type : Byte) (payload more : List Byte) :
    blockFront cfg type payload more =
      cfg.leaderByte :: cfg.syncByte :: type :: BitVec.ofNat 8 payload.length :: (payload ++ more) := rfl

theorem blockWithTrailer_append (type : Byte) (payload : List Byte) (trailer : Byte) (more : List Byte) :
    Spec.blockWithTrailer cfg type payload trailer ++ more =
      blockFront cfg type payload (Spec.checksum type payload :: trailer :: more) := by
  simp [Spec.blockWithTrailer, blockFront]

/-- Reading past the payload is reading what follows it. -/
theorem memRead_blockFront (f : FrmRegs) (type : Byte) (payload more : List Byte) (j : Nat) :
    memRead f (blockFront cfg type payload more) base (4 + j + payload.length) =
      memRead f more (base + (4 + payload.length)) j := by
  have hget : (blockFront cfg type payload more)[4 + j + payload.length]? = more[j]? := by
    rw [blockFront, List.getElem?_append_right (by simp; omega)]
    congr 1
    simp; omega
  rw [memRead, memRead, hget, Nat.add_right_comm 4, Nat.add_assoc base]

section WholePayload
variable (type : Byte) {payload : List Byte} (hlen : payload.length ≤ 255)
include hlen

/-- A length byte counts a payload of at most 255 bytes exactly. -/
theorem toNat_lengthByte : (BitVec.ofNat 8 payload.length).toNat = payload.length := by
  rw [BitVec.toNat_ofNat]; omega

/-- What is left to do once the whole payload is read, `more` being what follows it: the accumulator holds the checksum
of R85. -/
theorem decodeBlockAt_payload (more : List Byte) :
    decodeBlockAt cfg f0 base (blockFront cfg type payload more) =
      (memRead { Spec.framed f0 type payload with off := base } more (base + (4 + payload.length)) 0).bind fun f c =>
        if c ≠ f.csum then .raise f .checksumError (base + 4 + payload.length) else
        (memRead f more (base + (4 + payload.length)) 1).bind fun f _ =>
          .ok { f with off := base + 6 + payload.length }
            ({ blockType := type, payload := payload, checksum := c }, 6 + payload.length) := by
  have hread := readPayload_ok (blockFront cfg type payload more) base payload.length 4
    { csum := type + BitVec.ofNat 8 payload.length, type := type, len := BitVec.ofNat 8 payload.length, off := base }
    (by simp [blockFront]; omega)
  have hdrop : (blockFront cfg type payload more).drop 4 = payload ++ more := rfl
  have hchecksum (f : FrmRegs) := memRead_blockFront cfg base f type payload more 0
  have htrailer (f : FrmRegs) := memRead_blockFront cfg base f type payload more 1
  rw [hdrop, List.take_left, foldl_addToChecksum, ← checksum_eq_sum, checksum_eq_spec] at hread
  rw [decodeBlockAt_header cfg f0 base (blockFront_eq_cons ..), toNat_lengthByte hlen, hread, Res.bind_ok]
  simp only [Nat.add_zero, Nat.reduceAdd] at hchecksum htrailer
  simp only [hchecksum, htrailer]
  rfl

theorem decodeBlockAt_cut_after_payload :
    decodeBlockAt cfg f0 base (blockFront cfg type payload []) =
      .raise { Spec.framed f0 type payload with off := base } .truncatedInputError (base + 4 + payload.length) := by
  rw [decodeBlockAt_payload cfg f0 base type hlen, Nat.add_assoc base]
  rfl

theorem decodeBlockAt_of_checksum_ne {c : Byte} (more : List Byte) (h : c ≠ Spec.checksum type payload) :
    decodeBlockAt cfg f0 base (blockFront cfg type payload (c :: more)) =
      .raise { Spec.framed f0 type payload with off := base } .checksumError (base + 4 + payload.length) :=
  (decodeBlockAt_payload cfg f0 base type hlen (c :: more)).trans (if_pos h)

theorem decodeBlockAt_cut_after_checksum :
    decodeBlockAt cfg f0 base (blockFront cfg type payload [Spec.checksum type payload]) =
      .raise { Spec.framed f0 type payload with off := base } .truncatedInputError (base + 5 + payload.length) := by
  rw [decodeBlockAt_payload cfg f0 base type hlen]
  simp [memRead, Spec.framed]
  omega

/-- A block with the right checksum and any trailer byte (R88) is read whole, whatever follows it. -/
theorem decodeBlockAt_whole (trailer : Byte) (more : List Byte) :
    decodeBlockAt cfg f0 base (blockFront cfg type payload (Spec.checksum type payload :: trailer :: more)) =
      .ok (Spec.parsed f0 type payload base)
        ({ blockType := type, payload := payload, checksum := Spec.checksum type payload }, 6 + payload.length) := by
  rw [decodeBlockAt_payload cfg f0 base type hlen]
  simp [memRead, Spec.framed, Spec.parsed]

end WholePayload
end DecodeBlockAt

/-! ### DECBLK -/

theorem exec_decblk (bytes : List Byte) (offset : Nat) (s : State) :
    exec (.decblk bytes offset) s =
      s.conclude (fun f => { s.work with frm := f }) (fun r => .block r.1 r.2)
        (decodeBlockAt s.cfg s.work.frm offset (bytes.drop offset)) := rfl

section Decblk
variable {s : State} {bytes rest : List Byte} {offset : Nat} (hbytes : bytes.drop offset = rest)
include hbytes

theorem exec_decblk_fails {f : FrmRegs} {e : Failure} {n : Nat}
    (h : decodeBlockAt s.cfg s.work.frm offset rest = .raise f e n) :
    Spec.Fails (exec (.decblk bytes offset) s) s e n := by
  rw [exec_decblk, hbytes, h]
  exact s.conclude_raise_fails _ _ _ _ _

theorem exec_decblk_delivers {f : FrmRegs} {blk : TapeBlock} {n : Nat}
    (h : decodeBlockAt s.cfg s.work.frm offset rest = .ok f (blk, n)) :
    Spec.Delivers (exec (.decblk bytes offset) s) s { s.work with frm := f } (.block blk n) := by
  rw [exec_decblk, hbytes, h]
  exact s.conclude_ok_delivers _ _ _ _

end Decblk

/-- A buffer that holds the header and `len` bytes more holds a whole payload, which `len` counts exactly. -/
theorem exists_blockFront (cfg : Config) (type : Byte) {len : Byte} {rest : List Byte} (h : len.toNat ≤ rest.length) :
    ∃ payload more, rest = payload ++ more ∧ payload.length = len.toNat ∧
      cfg.leaderByte :: cfg.syncByte :: type :: len :: rest = blockFront cfg type payload more := by
  have hlen : (rest.take len.toNat).length = len.toNat := by simpa using h
  exact ⟨rest.take len.toNat, rest.drop len.toNat, (List.take_append_drop ..).symm, hlen, by simp [blockFront, hlen]⟩

/-- R87 from the length byte on: `rest` is what follows it. -/
theorem decblk_outcome_of_header {s : State} {bytes rest : List Byte} {offset : Nat} {type len : Byte}
    (hbytes : bytes.drop offset = s.cfg.leaderByte :: s.cfg.syncByte :: type :: len :: rest) :
    let fail := Spec.Fails (exec (.decblk bytes offset) s) s
    let payload := rest.take len.toNat
    if rest.length ≤ len.toNat then fail .truncatedInputError (offset + 4 + rest.length) else
    if rest[len.toNat]? ≠ some (Spec.checksum type payload) then fail .checksumError (offset + 4 + len.toNat) else
    if rest.length = len.toNat + 1 then fail .truncatedInputError (offset + 5 + len.toNat) else
    Spec.Delivers (exec (.decblk bytes offset) s) s
      { s.work with frm := Spec.parsed s.work.frm type payload offset }
      (.block { blockType := type, payload := payload, checksum := Spec.checksum type payload } (6 + len.toNat)) := by
  intro fail payload
  by_cases hcut : rest.length < len.toNat
  · rw [if_pos hcut.le]
    obtain ⟨f, hf⟩ := decodeBlockAt_cut_in_payload s.cfg s.work.frm offset type hcut
    exact exec_decblk_fails hbytes hf
  obtain ⟨p, more, rfl, hp, hfront⟩ := exists_blockFront s.cfg type (Nat.le_of_not_lt hcut)
  have hp255 : p.length ≤ 255 := by have := len.isLt; omega
  have hpayload : payload = p := by rw [show payload = (p ++ more).take len.toNat from rfl, ← hp, List.take_left]
  rw [hfront] at hbytes
  rw [hpayload, ← hp]
  match more with
  | [] =>
    rw [if_pos (by simp), List.append_nil]
    exact exec_decblk_fails hbytes (decodeBlockAt_cut_after_payload s.cfg s.work.frm offset type hp255)
  | c :: more =>
    rw [if_neg (by simp), List.getElem?_append_right le_rfl, Nat.sub_self, List.getElem?_cons_zero]
    by_cases hc : c = Spec.checksum type p
    case neg =>
      rw [if_pos (by simpa using hc)]
      exact exec_decblk_fails hbytes (decodeBlockAt_of_checksum_ne s.cfg s.work.frm offset type hp255 more hc)
    subst hc
    rw [if_neg (by simp)]
    match more with
    | [] =>
      rw [if_pos (by simp)]
      exact exec_decblk_fails hbytes (decodeBlockAt_cut_after_checksum s.cfg s.work.frm offset type hp255)
    | trailer :: more =>
      rw [if_neg (by simp)]
      exact exec_decblk_delivers hbytes (decodeBlockAt_whole s.cfg s.work.frm offset type hp255 trailer more)

/-- Settles O18: one case per byte examined, in the order of the pseudocode. -/
theorem decblkOutcome : Obligations.DecblkOutcome := by
  intro s bytes offset fail
  match hbytes : bytes.drop offset with
  | [] => exact exec_decblk_fails hbytes (decodeBlockAt_nil s.cfg s.work.frm offset)
  | b0 :: r0 =>
    dsimp only
    split
    case isTrue h => exact exec_decblk_fails hbytes (decodeBlockAt_of_leader_ne s.cfg s.work.frm offset r0 h)
    case isFalse h =>
      obtain rfl := Decidable.not_not.mp h
      match r0 with
      | [] => exact exec_decblk_fails hbytes (decodeBlockAt_cut_after_leader s.cfg s.work.frm offset)
      | b1 :: r1 =>
        dsimp only
        split
        case isTrue h => exact exec_decblk_fails hbytes (decodeBlockAt_of_sync_ne s.cfg s.work.frm offset r1 h)
        case isFalse h =>
          obtain rfl := Decidable.not_not.mp h
          match r1 with
          | [] => exact exec_decblk_fails hbytes (decodeBlockAt_cut_after_sync s.cfg s.work.frm offset)
          | [type] => exact exec_decblk_fails hbytes (decodeBlockAt_cut_after_type s.cfg s.work.frm offset type)
          | type :: len :: rest => exact decblk_outcome_of_header hbytes

/-- A block of at most 255 payload bytes with a right checksum is delivered at any offset, whatever its trailer. -/
theorem exec_decblk_blockWithTrailer (s : State) (type : Byte) {payload : List Byte} (trailer : Byte)
    (pre post : List Byte) (hlen : payload.length ≤ 255) :
    Spec.Delivers (exec (.decblk (pre ++ Spec.blockWithTrailer s.cfg type payload trailer ++ post) pre.length) s) s
      { s.work with frm := Spec.parsed s.work.frm type payload pre.length }
      (.block { blockType := type, payload := payload, checksum := Spec.checksum type payload }
        (6 + payload.length)) := by
  rw [List.append_assoc, blockWithTrailer_append]
  exact exec_decblk_delivers List.drop_left (decodeBlockAt_whole s.cfg s.work.frm pre.length type hlen trailer post)

theorem Config.maxPayload_le (cfg : Config) : cfg.maxPayload ≤ 255 := by
  have h := cfg.legal
  omega

/-- Settles O19: a block that fits `MAX_PAYLOAD` is one with `LEADER_BYTE` as trailer. -/
theorem decblkOfEncodedBlock : Obligations.DecblkOfEncodedBlock := by
  intro s type payload pre post h
  obtain ⟨t, ht, -, hresult, -⟩ := exec_encblk_delivers type h
  exact ⟨⟨t, ht, hresult⟩,
    exec_decblk_blockWithTrailer s type s.cfg.leaderByte pre post (h.trans (Config.maxPayload_le s.cfg))⟩

theorem length_block (cfg : Config) (type : Byte) (payload : List Byte) :
    (Spec.block cfg type payload).length = 6 + payload.length := by
  simp [Spec.block, Spec.blockWithTrailer]; omega

theorem getElem?_block_trailer (cfg : Config) (type : Byte) (payload : List Byte) :
    (Spec.block cfg type payload)[5 + payload.length]? = some cfg.leaderByte := by
  have hsplit : Spec.block cfg type payload =
      blockFront cfg type payload [Spec.checksum type payload] ++ [cfg.leaderByte] := by
    simp [Spec.block, Spec.blockWithTrailer, blockFront]
  have hlen : 5 + payload.length = (blockFront cfg type payload [Spec.checksum type payload]).length := by
    simp [blockFront]; omega
  rw [hsplit, hlen, List.getElem?_concat_length]

/-- Settles O20: no rule of the reader speaks of the trailer's value, and the encoder's last byte is `LEADER_BYTE`. -/
theorem trailerIsNotCompared : Obligations.TrailerIsNotCompared := by
  refine ⟨fun s type payload trailer pre post => exec_decblk_blockWithTrailer s type trailer pre post, ?_⟩
  intro s type payload h
  obtain ⟨t, ht, -, hresult, -⟩ := exec_encblk_delivers type h
  exact ⟨t, _, ht, hresult, getElem?_block_trailer .., length_block ..⟩

/-- A payload byte of a block replaced: the checksum byte stays that of the payload as it was. -/
theorem block_set_payload (cfg : Config) (type : Byte) {payload : List Byte} {k : Nat} (b : Byte)
    (hk : k < payload.length) :
    (Spec.block cfg type payload).set (4 + k) b =
      blockFront cfg type (payload.set k b) [Spec.checksum type payload, cfg.leaderByte] := by
  rw [Spec.block, Spec.blockWithTrailer, Nat.add_comm]
  simp [blockFront, List.set_append_left _ _ hk]

/-- Settles O21: the checksum byte is no longer that of the payload read. -/
theorem singleByteChangeDetected : Obligations.SingleByteChangeDetected := by
  intro s type payload k b hlen hk hb
  have hne : payload[k] ≠ b := by simpa [List.getElem?_eq_getElem hk] using hb
  have hraise := decodeBlockAt_of_checksum_ne s.cfg s.work.frm 0 type (payload := payload.set k b)
    (by rwa [List.length_set]) [s.cfg.leaderByte] (checksum_set_ne type hk hne).symm
  rw [← block_set_payload _ _ _ hk, List.length_set, Nat.zero_add] at hraise
  exact exec_decblk_fails List.drop_zero hraise

end Sys2Proof.Machine

/-! Tape stream SEQ, the Namefile header (spec/41_tape_stream.md, R105): the rule of a 16-bit field read from two bytes,
the name's bytes one by one, and the obligation O26. -/

namespace Sys2Proof.Machine

/-- Two bytes always fit the 16-bit field, so nothing is cut off (R41). -/
theorem addrOfBytes_toNat (hi lo : Byte) : (addrOfBytes hi lo).toNat = hi.toNat * 256 + lo.toNat := by
  have hhi : hi.toNat < 256 := hi.isLt
  have hlo : lo.toNat < 256 := lo.isLt
  rw [addrOfBytes, BitVec.toNat_ofNat, Nat.mod_eq_of_lt (by omega)]

/-- The program name is the payload's first 8 bytes, each at its own offset (R68). -/
theorem parseNamefile_programName (h : Vector Byte 15) :
    (parseNamefile h).programName = [h[0], h[1], h[2], h[3], h[4], h[5], h[6], h[7]] := by
  have hname : (parseNamefile h).programName = List.ofFn fun i : Fin 8 => h[i.val] :=
    List.ext_getElem (by simp [parseNamefile]) fun i _ _ => by
      rw [List.getElem_ofFn]
      simp [parseNamefile]
  rw [hname]
  rfl

/-- Settles O26: the name and the two address fields by their own rules; the other three fields are single bytes. -/
theorem parseNamefileFields : Obligations.ParseNamefileFields :=
  fun h => ⟨parseNamefile_programName h, rfl, rfl, rfl, addrOfBytes_toNat h[11] h[12], addrOfBytes_toNat h[13] h[14]⟩

end Sys2Proof.Machine

/-! Modulator MOD (spec/42_fsk_modulator.md, R115 to R121): the closed forms of its loops, a cycle and a stream at the
default configuration, and the obligations O38 to O44. -/

namespace Sys2Proof.Machine

/-! ### The cell of a bit, and the two loops (R115 to R118) -/

theorem cyclesForBit_eq (cfg : Config) (bit : Bool) :
    cyclesForBit cfg bit = if bit then cfg.sampleRate / cfg.freqOne else cfg.sampleRate / cfg.freqZero := rfl

theorem buildCycle_cyclesForBit (cfg : Config) (bit : Bool) :
    buildCycle cfg (cyclesForBit cfg bit) = Spec.cycle cfg bit := rfl

/-- The loop of `encodeByte` sends the `n` lowest bits of `MOD.SR`, bit 0 first, and shifts them out (R117). -/
theorem sendBits_eq (cfg : Config) (n : Nat) (m : ModRegs) :
    sendBits cfg n m = ({ sr := m.sr >>> n, bitn := m.bitn + Fin.ofNat 9 n },
      ((List.range n).map m.sr.getLsbD).flatMap (Spec.cycle cfg)) := by
  induction n generalizing m with
  | zero => simp [sendBits]
  | succ n ih =>
    have hbitn : m.bitn + 1 + Fin.ofNat 9 n = m.bitn + Fin.ofNat 9 (n + 1) := by
      apply Fin.ext
      simp only [Fin.val_add, Fin.val_ofNat, Fin.val_one]
      omega
    have hsr : m.sr >>> 1 >>> n = m.sr >>> (n + 1) := by rw [← BitVec.shiftRight_add, Nat.add_comm]
    have hbits : (List.range n).map (m.sr >>> 1).getLsbD = (List.range n).map (m.sr.getLsbD ∘ Nat.succ) :=
      List.map_congr_left fun k _ => by simp [Nat.add_comm]
    rw [sendBits, ih, List.range_succ_eq_map, List.map_cons, List.map_map, List.flatMap_cons, hbitn, hsr, hbits,
      buildCycle_cyclesForBit]

theorem encodeByte_eq (cfg : Config) (byte : Byte) :
    encodeByte cfg byte = ({ sr := 0, bitn := 8 }, (Spec.bitsOf byte).flatMap (Spec.cycle cfg)) := by
  have hsr : byte >>> 8 = 0 := BitVec.ushiftRight_eq_zero (Nat.le_refl 8)
  rw [encodeByte, sendBits_eq, hsr, Spec.bitsOf]
  rfl

theorem stream_cons (cfg : Config) (b : Byte) (bs : List Byte) :
    Spec.stream cfg (b :: bs) = (Spec.bitsOf b).flatMap (Spec.cycle cfg) ++ Spec.stream cfg bs := by
  simp [Spec.stream]

/-- A stream starts from whatever MOD holds and leaves the same behind, so two in a row are as one. -/
theorem modAfter_append (m : ModRegs) (p q : List Byte) :
    Spec.modAfter (Spec.modAfter m p) q = Spec.modAfter m (p ++ q) := by
  cases p <;> cases q <;> rfl

theorem encodeStream_eq (cfg : Config) (m : ModRegs) (bytes : List Byte) :
    encodeStream cfg m bytes = (Spec.modAfter m bytes, Spec.stream cfg bytes) := by
  induction bytes generalizing m with
  | nil => rfl
  | cons b bs ih =>
    have hm : Spec.modAfter { sr := 0, bitn := 8 } bs = Spec.modAfter m (b :: bs) := modAfter_append m [b] bs
    rw [encodeStream, ih, encodeByte_eq, stream_cons, hm]

/-! ### Durations and the gap (R119, R120) -/

/-- Multiplying numerators and dividing by the denominator is the exact floor (92_eei_decisions.md D10). -/
theorem durationSamples_eq_floor (cfg : Config) {q : Rat} (hq : 0 ≤ q) :
    durationSamples cfg q = ⌊(cfg.sampleRate : Rat) * q⌋.toNat := by
  have hnum : 0 ≤ (cfg.sampleRate : Int) * q.num := Int.mul_nonneg (Int.natCast_nonneg _) (Rat.num_nonneg.mpr hq)
  have hprod : (cfg.sampleRate : Rat) * q = (((cfg.sampleRate : Int) * q.num : Int) : Rat) / (q.den : Nat) := by
    conv_lhs => rw [← Rat.num_div_den q]
    push_cast
    ring
  rw [hprod, Rat.floor_intCast_div_natCast, durationSamples]
  lift (cfg.sampleRate : Int) * q.num to Nat using hnum with n
  simp [← Int.natCast_ediv]

theorem silenceSamples_gapSeconds (cfg : Config) : silenceSamples cfg cfg.gapSeconds = Spec.gap cfg := by
  obtain ⟨-, -, -, -, -, hgap, -⟩ := cfg.legal
  rw [silenceSamples, durationSamples_eq_floor cfg (Rat.num_nonneg.mp hgap), Spec.gap]

theorem modulate_eq (cfg : Config) (m : ModRegs) (part1 part2 : List Byte) :
    modulate cfg m part1 part2 = (Spec.modAfter m (part1 ++ part2),
      Spec.stream cfg part1 ++ Spec.gap cfg ++ Spec.stream cfg part2) := by
  simp [modulate, encodeStream_eq, modAfter_append, silenceSamples_gapSeconds]

/-! ### The meanings, as the statements speak of them -/

theorem State.deliver_delivers (s : State) (w : Work) (r : Result) : Spec.Delivers (.next (s.deliver w r)) s w r :=
  ⟨_, rfl, s.deliver_err w r, s.deliver_result w r, s.deliver_work w r, s.deliver_cfg w r⟩

theorem exec_cyclen (bit : Bool) (s : State) :
    exec (.cyclen bit) s = .next (s.deliver s.work (.sampleCount (cyclesForBit s.cfg bit))) := rfl

theorem exec_bldcyc (n : Nat) (s : State) :
    exec (.bldcyc n) s = .next (s.deliver s.work (.samples (buildCycle s.cfg n))) := rfl

theorem exec_encbyte (byte : Byte) (s : State) :
    exec (.encbyte byte) s = .next (s.deliver { s.work with mod := { sr := 0, bitn := 8 } }
      (.samples ((Spec.bitsOf byte).flatMap (Spec.cycle s.cfg)))) := by
  rw [exec, execEncbyte, encodeByte_eq, State.deliverSamples]

theorem exec_encstrm (bytes : List Byte) (s : State) :
    exec (.encstrm bytes) s = .next (s.deliver { s.work with mod := Spec.modAfter s.work.mod bytes }
      (.samples (Spec.stream s.cfg bytes))) := by
  rw [exec, execEncstrm, encodeStream_eq, State.deliverSamples]

theorem exec_modul (part1 part2 : List Byte) (s : State) :
    exec (.modul part1 part2) s = .next (s.deliver { s.work with mod := Spec.modAfter s.work.mod (part1 ++ part2) }
      (.samples (Spec.stream s.cfg part1 ++ Spec.gap s.cfg ++ Spec.stream s.cfg part2))) := by
  rw [exec, execModul, modulate_eq, State.deliverSamples]

theorem exec_silence_of_nonneg (s : State) {q : Rat} (hq : 0 ≤ q) :
    exec (.silence q) s = .next (s.deliver s.work
      (.samples (List.replicate (⌊(s.cfg.sampleRate : Rat) * q⌋.toNat) 0))) := by
  rw [exec, execSilence, if_neg (not_lt.mpr (Rat.num_nonneg.mpr hq)), silenceSamples, durationSamples_eq_floor _ hq]

theorem exec_silence_of_neg (s : State) {q : Rat} (hq : q < 0) : exec (.silence q) s = .refused .negativeDuration :=
  if_pos (Rat.num_neg.mpr hq)

/-! ### Cycles and streams at the default configuration (R121) -/

/-- Half the length of a bit's cycle at the default configuration: 10 of 20 samples, 20 of 40. -/
def halfCycle (bit : Bool) : Nat := if bit then 10 else 20

theorem halfCycle_bounds (bit : Bool) : 10 ≤ halfCycle bit ∧ halfCycle bit ≤ 20 := by cases bit <;> decide

/-- The samples of some bits at the default configuration: a high and a low half for each. -/
def cells (bits : List Bool) : List Int :=
  bits.flatMap fun bit => List.replicate (halfCycle bit) 8000 ++ List.replicate (halfCycle bit) (-8000)

@[simp] theorem cells_nil : cells [] = [] := rfl

theorem cells_cons (bit : Bool) (bits : List Bool) : cells (bit :: bits) =
    List.replicate (halfCycle bit) 8000 ++ (List.replicate (halfCycle bit) (-8000) ++ cells bits) := by
  rw [cells, List.flatMap_cons, List.append_assoc, cells]

theorem cells_append (p q : List Bool) : cells (p ++ q) = cells p ++ cells q := List.flatMap_append

theorem flatMap_cycle_default (a b : Addr) (bits : List Bool) :
    bits.flatMap (Spec.cycle (Config.defaultWith a b)) = cells bits :=
  congrArg bits.flatMap (funext fun bit => by cases bit <;> simp [Spec.cycle, halfCycle])

theorem stream_default (a b : Addr) (bytes : List Byte) :
    Spec.stream (Config.defaultWith a b) bytes = cells (bytes.flatMap Spec.bitsOf) := flatMap_cycle_default a b _

theorem length_cells_cons (bit : Bool) (bits : List Bool) :
    (cells (bit :: bits)).length = 2 * halfCycle bit + (cells bits).length := by
  simp only [cells_cons, List.length_append, List.length_replicate]
  omega

theorem length_cells_snoc (bits : List Bool) (bit : Bool) :
    (cells (bits ++ [bit])).length = (cells bits).length + 2 * halfCycle bit := by
  rw [cells_append, List.length_append, length_cells_cons, cells_nil, List.length_nil, Nat.add_zero]

theorem length_cells (bits : List Bool) : (cells bits).length + 20 * bits.count true = 40 * bits.length := by
  induction bits with
  | nil => rfl
  | cons bit bits ih => cases bit <;> simp [length_cells_cons, halfCycle] <;> omega

theorem sum_cells (bits : List Bool) : (cells bits).sum = 0 := by
  induction bits with
  | nil => rfl
  | cons bit bits ih => simp [cells_cons, ih]

theorem length_gap_default (a b : Addr) : (Spec.gap (Config.defaultWith a b)).length = 24000 := by
  rw [← silenceSamples_gapSeconds, silenceSamples, List.length_replicate]
  exact gapSamples_default a b

theorem length_bitsOf (b : Byte) : (Spec.bitsOf b).length = 8 := by simp [Spec.bitsOf]

theorem length_flatMap_bitsOf (bytes : List Byte) : (bytes.flatMap Spec.bitsOf).length = 8 * bytes.length := by
  simp [List.length_flatMap, length_bitsOf, Nat.mul_comm]

/-! ### The obligations -/

/-- Settles O38: a legal rate has two short cycles of `SAMPLE_RATE / 2400` or more in a long one, and at least one. -/
theorem cyclenOutcome : Obligations.CyclenOutcome := by
  refine ⟨fun s bit => ?_, fun cfg hzero hone => ?_, fun a b => ?_⟩
  · rw [exec_cyclen, cyclesForBit_eq]
    exact s.deliver_delivers _ _
  · have hrate := cfg.legal.1
    simp only [cyclesForBit_eq, hzero, hone, if_true, Bool.false_eq_true, if_false]
    omega
  · exact ⟨longCycle_default a b, shortCycle_default a b⟩

/-- Settles O39: the cycle is two constant runs, of `n - n / 2` and `n / 2` samples. -/
theorem bldcycOutcome : Obligations.BldcycOutcome := by
  intro s n
  refine ⟨buildCycle s.cfg n, exec_bldcyc n s ▸ s.deliver_delivers _ _, ?_, fun k hk => ?_, ?_⟩
  · simp only [buildCycle, List.length_append, List.length_replicate]
    omega
  · simp only [buildCycle, highSample, lowSample, List.getElem?_append, List.length_replicate, List.getElem?_replicate]
    split <;> simp; omega
  · simp only [buildCycle, highSample, lowSample, List.sum_append, List.sum_replicate, nsmul_eq_mul]
    rcases Nat.mod_two_eq_zero_or_one n with heven | hodd
    · rw [if_pos heven, show n - n / 2 = n / 2 by omega]
      ring
    · rw [if_neg (by omega), show n - n / 2 = n / 2 + 1 by omega]
      push_cast
      ring

/-- Settles O40: eight turns of the loop on the byte; their length is that of any eight bits. -/
theorem encbyteOutcome : Obligations.EncbyteOutcome := by
  intro s byte
  refine ⟨exec_encbyte byte s ▸ s.deliver_delivers _ _, fun a b => ?_⟩
  have hlen := length_cells (Spec.bitsOf byte)
  rw [length_bitsOf] at hlen
  rw [flatMap_cycle_default]
  exact Nat.eq_sub_of_add_eq hlen

/-- Settles O41: `encodeStream_eq`, which is by induction on the bytes, delivered. -/
theorem encstrmOutcome : Obligations.EncstrmOutcome := fun s bytes =>
  exec_encstrm bytes s ▸ s.deliver_delivers _ _

/-- Settles O42, from the length and the sum of the cycles of any bits. -/
theorem streamLengthLaw : Obligations.StreamLengthLaw := by
  intro a b s hcfg
  refine ⟨fun bytes => ⟨_, _, exec_encstrm bytes s, s.deliver_result _ _, ?_, ?_⟩,
    fun p q => ⟨_, _, _, _, _, _, exec_encstrm p s, exec_encstrm q s, exec_modul p q s, s.deliver_result _ _,
      s.deliver_result _ _, s.deliver_result _ _, ?_⟩⟩
  · rw [hcfg, stream_default, length_cells, length_flatMap_bitsOf]
    omega
  · rw [hcfg, stream_default, sum_cells]
  · rw [List.length_append, List.length_append, hcfg, length_gap_default]

/-- Settles O43, on the two sides of 0. -/
theorem silenceOutcome : Obligations.SilenceOutcome := fun s _ =>
  ⟨fun hq => exec_silence_of_nonneg s hq ▸ s.deliver_delivers _ _, fun hq => exec_silence_of_neg s hq⟩

/-- Settles O44, from the two streams and the gap between them. -/
theorem modulOutcome : Obligations.ModulOutcome := fun s part1 part2 =>
  exec_modul part1 part2 s ▸ s.deliver_delivers _ _

end Sys2Proof.Machine

/-! Demodulator DEM on the modulator's output (spec/43_fsk_demodulator.md, R130 to R150): the two scans on constant
runs, a turn on a high run with a low one after it, the reference window of a stream, and the obligation O54. -/

namespace Sys2Proof.Machine

/-! ### The scans on constant runs (R136, R139) -/

section Scans
variable {cfg : Config} {d : DemRegs} {v : Sample}

theorem highRun_replicate_append (hv : aboveMean d v = true) (n : Nat) (rest : List Sample) :
    highRun cfg d (List.replicate n v ++ rest) = n + highRun cfg d rest := by
  induction n with
  | zero => simp
  | succ n ih =>
    have hany : anyAboveMean cfg d (v :: (List.replicate n v ++ rest)) = true := by simp [anyAboveMean, hv]
    rw [List.replicate_succ, List.cons_append, highRun, if_pos hany, ih]
    omega

/-- A low run longer than the lookahead stops the scan at once, whatever follows. -/
theorem highRun_eq_zero_of_low {k : Nat} (hv : aboveMean d v = false) (hk : cfg.lookahead < k) (rest : List Sample) :
    highRun cfg d (List.replicate k v ++ rest) = 0 := by
  cases k with
  | zero => omega
  | succ k =>
    have hany : anyAboveMean cfg d (List.replicate (k + 1) v ++ rest) = false := by
      rw [anyAboveMean, List.take_append_of_le_length (by simpa using hk), List.take_replicate]
      simp [hv]
    rw [List.replicate_succ, List.cons_append] at hany ⊢
    rw [highRun, if_neg (by simp [hany])]

theorem lowSkip_replicate_append (hv : belowTrigger cfg d v = true) (n : Nat) (rest : List Sample) :
    lowSkip cfg d (List.replicate n v ++ rest) = n + lowSkip cfg d rest := by
  induction n with
  | zero => simp
  | succ n ih =>
    rw [List.replicate_succ, List.cons_append, lowSkip, if_pos hv, ih]
    omega

theorem lowSkip_eq_zero_of_head {rest : List Sample} (h : ∀ x, rest.head? = some x → belowTrigger cfg d x = false) :
    lowSkip cfg d rest = 0 := by
  cases rest with
  | nil => rfl
  | cons x r => rw [lowSkip, if_neg (by simp [h x rfl])]

end Scans

/-! ### The comparisons with the thresholds (R134) -/

theorem aboveMean_iff (d : DemRegs) (v : Int) : aboveMean d v = true ↔ d.wsum < v * d.wn := decide_eq_true_iff

theorem belowTrigger_iff (cfg : Config) (d : DemRegs) (v : Int) : belowTrigger cfg d v = true ↔
    (cfg.triggerDiv : Int) * d.wn * v < cfg.triggerDiv * d.wsum + d.wn * d.wspan := decide_eq_true_iff

/-! ### A turn that finds a run (R135 to R141) -/

/-- The thresholds measured at the start of a turn tell the high level from the low one: the mean lies between them, and
so does the trigger. -/
structure Separates (cfg : Config) (d : DemRegs) (hi lo : Sample) : Prop where
  hi_above : aboveMean d hi = true
  lo_not_above : aboveMean d lo = false
  lo_below : belowTrigger cfg d lo = true
  hi_not_below : belowTrigger cfg d hi = false

section Turn
variable {cfg : Config} {S rest : List Sample} {d : DemRegs} {hi lo : Sample} {n k : Nat}

/-- A turn that begins on `n` high samples with `k` low ones after them records a run of `n` and skips the low run and
whatever else is below the trigger. -/
theorem detectTurn_run (hS : S.drop d.idx = List.replicate n hi ++ (List.replicate k lo ++ rest)) (hn : 0 < n)
    (hk : cfg.lookahead < k) (hsep : Separates cfg (measureWindow cfg S d) hi lo) :
    detectTurn cfg S d = .ok { measureWindow cfg S d with
      run := n
      skip := k + lowSkip cfg (measureWindow cfg S d) rest
      runs := d.runs ++ [{ lengthInSamples := n, classifiedBit := .unknown }]
      idx := d.idx + n + (k + lowSkip cfg (measureWindow cfg S d) rest)
      anchor := if k + lowSkip cfg (measureWindow cfg S d) rest > windowLen cfg
        then d.idx + n + (k + lowSkip cfg (measureWindow cfg S d) rest) else d.anchor } () := by
  set m := measureWindow cfg S d with hm
  have hidx : m.idx = d.idx := measureWindow_idx cfg S d
  have hrun : highRun cfg m (S.drop m.idx) = n := by
    rw [hidx, hS, highRun_replicate_append hsep.hi_above, highRun_eq_zero_of_low hsep.lo_not_above hk, Nat.add_zero]
  have hcut : ¬ m.idx + n = S.length := by
    have hlen := congrArg List.length hS
    simp only [List.length_drop, List.length_append, List.length_replicate] at hlen
    omega
  have hscan : scanHigh cfg S m = .ok { m with
      run := n, idx := d.idx + n, runs := d.runs ++ [{ lengthInSamples := n, classifiedBit := .unknown }] } () := by
    rw [scanHigh, hrun]
    simp only [if_pos hn, if_neg hcut]
    rfl
  have hrest : S.drop (d.idx + n) = List.replicate k lo ++ rest := by
    rw [← List.drop_drop, hS, List.drop_left' List.length_replicate]
  have hskip : lowSkip cfg { m with
      run := n, idx := d.idx + n, runs := d.runs ++ [{ lengthInSamples := n, classifiedBit := .unknown }] }
      (S.drop (d.idx + n)) = k + lowSkip cfg m rest := by
    rw [hrest, ← lowSkip_replicate_append hsep.lo_below]
    apply lowSkip_congr <;> rfl
  rw [detectTurn, ← hm, hscan, Res.bind_ok]
  simp only [skipLow, hskip]
  rw [forceProgress, if_neg (by dsimp only; omega)]
  rfl

end Turn

/-! ### The reference window (R132, R133) -/

/-- The samples of the reference window of the turn that begins at `d`. -/
def windowSamples (cfg : Config) (S : List Sample) (d : DemRegs) : List Sample :=
  (S.drop (measureWindow cfg S d).ws).take (measureWindow cfg S d).wn

theorem measureWindow_wsum (cfg : Config) (S : List Sample) (d : DemRegs) :
    (measureWindow cfg S d).wsum = (windowSamples cfg S d).sum := rfl

theorem measureWindow_wspan (cfg : Config) (S : List Sample) (d : DemRegs) :
    (measureWindow cfg S d).wspan = windowSpan S d.idx (windowSamples cfg S d) := rfl

theorem measureWindow_wn (cfg : Config) (S : List Sample) (d : DemRegs) :
    (measureWindow cfg S d).wn = (windowSamples cfg S d).length := by
  simp only [windowSamples, measureWindow, List.length_take, List.length_drop]
  omega

/-- The window looks at the buffer from the anchor on, and at its `W` last samples before the turn where there are so
many. -/
theorem windowSamples_eq (cfg : Config) (S : List Sample) {d : DemRegs} (h : d.anchor ≤ d.idx) :
    windowSamples cfg S d = ((S.drop d.anchor).drop (d.idx - d.anchor - windowLen cfg)).take (windowLen cfg) := by
  have hws : (measureWindow cfg S d).ws = d.anchor + (d.idx - d.anchor - windowLen cfg) := by
    simp only [measureWindow]
    omega
  rw [windowSamples, List.drop_drop, ← hws, List.take_eq_take_iff]
  simp only [measureWindow, List.length_drop]
  omega

/-- Folding an operation that always chooses one of its two operands yields a member. -/
theorem foldl_mem_of_choice {op : Sample → Sample → Sample} (hop : ∀ x y, op x y = x ∨ op x y = y) (v : Sample)
    (vs : List Sample) : vs.foldl op v ∈ v :: vs :=
  List.foldlRecOn vs op (motive := (· ∈ v :: vs)) List.mem_cons_self fun x hx y hy => by
    rcases hop x y with hleft | hright
    · rwa [hleft]
    · rw [hright]
      exact List.mem_cons_of_mem v hy

theorem maxSample_mem {w : List Sample} (h : w ≠ []) : maxSample w ∈ w := by
  cases w with
  | nil => exact absurd rfl h
  | cons v vs => exact foldl_mem_of_choice max_choice v vs

theorem minSample_mem {w : List Sample} (h : w ≠ []) : minSample w ∈ w := by
  cases w with
  | nil => exact absurd rfl h
  | cons v vs => exact foldl_mem_of_choice min_choice v vs

/-- A window that separates the levels at the default configuration: all its samples lie between them, it is not all
low, and five sixths of it at most are high. -/
structure Balanced (w : List Int) : Prop where
  mem_levels : ∀ v ∈ w, -8000 ≤ v ∧ v ≤ 8000
  lt_sum : -8000 * w.length < w.sum
  sum_le : 3 * w.sum ≤ 16000 * w.length

theorem Balanced.ne_nil {w : List Int} (h : Balanced w) : w ≠ [] := by
  rintro rfl
  exact absurd h.lt_sum (by simp)

theorem Balanced.windowSpan_le {w : List Int} (h : Balanced w) (S : List Sample) (i : Nat) :
    windowSpan S i w ≤ 16000 := by
  have hmax := h.mem_levels _ (maxSample_mem h.ne_nil)
  have hmin := h.mem_levels _ (minSample_mem h.ne_nil)
  rw [windowSpan_of_ne_nil S i h.ne_nil]
  exact Int.toNat_le.mpr (Int.sub_le_sub hmax.2 hmin.1)

theorem Balanced.separates {a b : Addr} {S : List Sample} {d : DemRegs}
    (h : Balanced (windowSamples (Config.defaultWith a b) S d)) :
    Separates (Config.defaultWith a b) (measureWindow (Config.defaultWith a b) S d) 8000 (-8000) := by
  have hspan := h.windowSpan_le S d.idx
  have hlt := h.lt_sum
  have hle := h.sum_le
  rw [← measureWindow_wsum, ← measureWindow_wn] at hlt hle
  rw [← measureWindow_wspan] at hspan
  generalize measureWindow (Config.defaultWith a b) S d = m at hspan hlt hle
  have hlow : 0 ≤ (m.wn : Int) * m.wspan := Int.mul_nonneg (Int.natCast_nonneg _) (Int.natCast_nonneg _)
  have hhigh : (m.wn : Int) * m.wspan ≤ m.wn * 16000 :=
    Int.mul_le_mul_of_nonneg_left (by exact_mod_cast hspan) (Int.natCast_nonneg _)
  exact {
    hi_above := (aboveMean_iff m 8000).mpr (by omega)
    lo_not_above := Bool.eq_false_iff.mpr fun h => by
      rw [aboveMean_iff] at h
      omega
    lo_below := (belowTrigger_iff _ m (-8000)).mpr (by rw [Config.defaultWith_triggerDiv]; omega)
    hi_not_below := Bool.eq_false_iff.mpr fun h => by
      rw [belowTrigger_iff, Config.defaultWith_triggerDiv] at h
      omega }

/-! ### The window of a stream (R149) -/

/-- The beginning of a stream: whole cycles sum to 0, and what is left of the next one is at most its high half. -/
theorem sum_take_cells (bits : List Bool) (k : Nat) :
    0 ≤ ((cells bits).take k).sum ∧ ((cells bits).take k).sum ≤ 160000 := by
  induction bits generalizing k with
  | nil => simp
  | cons bit bits ih =>
    obtain ⟨hlow, hhigh⟩ := ih (k - 2 * halfCycle bit)
    obtain ⟨-, hhalf⟩ := halfCycle_bounds bit
    have hsum : ((cells (bit :: bits)).take k).sum =
        (min k (halfCycle bit) : Nat) * 8000 + ((min (k - halfCycle bit) (halfCycle bit) : Nat) * (-8000) +
          ((cells bits).take (k - 2 * halfCycle bit)).sum) := by
      simp [cells_cons, List.take_append, Nat.sub_sub, Nat.two_mul]
    rw [hsum]
    by_cases hk : k ≤ 2 * halfCycle bit
    · rw [Nat.sub_eq_zero_of_le hk, List.take_zero, List.sum_nil]
      omega
    · omega

theorem mem_cells {bits : List Bool} {v : Int} (h : v ∈ cells bits) : -8000 ≤ v ∧ v ≤ 8000 := by
  obtain ⟨bit, -, hv⟩ := List.mem_flatMap.mp h
  rcases List.mem_append.mp hv with hv | hv <;> rw [List.eq_of_mem_replicate hv] <;> decide

theorem balanced_take_cells {bits : List Bool} (h : 60 ≤ (cells bits).length) : Balanced ((cells bits).take 60) := by
  obtain ⟨hlow, hhigh⟩ := sum_take_cells bits 60
  have hlen : ((cells bits).take 60).length = 60 := List.length_take_of_le h
  exact ⟨fun v hv => mem_cells (List.mem_of_mem_take hv), by omega, by omega⟩

/-- A stream sums to 0, so its end sums to what its beginning lacks. -/
theorem balanced_drop_cells {bits : List Bool} (h : 60 ≤ (cells bits).length) :
    Balanced ((cells bits).drop ((cells bits).length - 60)) := by
  obtain ⟨hlow, hhigh⟩ := sum_take_cells bits ((cells bits).length - 60)
  have hlen : ((cells bits).drop ((cells bits).length - 60)).length = 60 := by
    rw [List.length_drop]
    omega
  have hsum := List.sum_take_add_sum_drop (cells bits) ((cells bits).length - 60)
  rw [sum_cells] at hsum
  exact ⟨fun v hv => mem_cells (List.mem_of_mem_drop hv), by omega, by omega⟩

theorem balanced_cells {bits : List Bool} (h : bits ≠ []) : Balanced (cells bits) := by
  have hlen := length_cells bits
  have hcount := bits.count_le_length (a := true)
  have hpos := List.length_pos_iff.mpr h
  exact ⟨fun v hv => mem_cells hv, by rw [sum_cells]; omega, by rw [sum_cells]; omega⟩

/-- At every cycle of a stream that begins at the anchor the window is balanced: before the 61st sample it is the
stream's beginning, afterwards the end of what has been scanned. What follows the stream does not matter where the
stream is longer than a window. -/
theorem balanced_windowSamples (a b : Addr) {S tail : List Sample} {d : DemRegs} {done todo : List Bool}
    (hS : S.drop d.anchor = cells (done ++ todo) ++ tail) (hidx : d.idx = d.anchor + (cells done).length)
    (htodo : todo ≠ []) (htail : tail = [] ∨ 60 ≤ (cells (done ++ todo)).length) :
    Balanced (windowSamples (Config.defaultWith a b) S d) := by
  rw [windowSamples_eq _ S (by omega), hS, windowLen_default, hidx, Nat.add_sub_cancel_left]
  by_cases hdone : 60 ≤ (cells done).length
  · have hend := balanced_drop_cells hdone
    rwa [cells_append, List.append_assoc, List.drop_append_of_le_length (by omega),
      List.take_left' (by rw [List.length_drop]; omega)]
  · rw [Nat.sub_eq_zero_of_le (by omega), List.drop_zero]
    by_cases hlen : 60 ≤ (cells (done ++ todo)).length
    · rw [List.take_append_of_le_length hlen]
      exact balanced_take_cells hlen
    · rw [htail.resolve_right hlen, List.append_nil, List.take_of_length_le (by omega)]
      exact balanced_cells (by simp [htodo])

/-! ### Run detection on a stream: one run per cycle (R149) -/

/-- The run recorded for a bit's cycle. -/
def bitRun (bit : Bool) : CycleRun := { lengthInSamples := halfCycle bit, classifiedBit := .unknown }

/-- The turn on the next cycle of a stream records its high half, skips its low half and keeps the anchor. -/
theorem detectTurn_cell (a b : Addr) {S tail : List Sample} {d : DemRegs} {done todo : List Bool} {bit : Bool}
    (hS : S.drop d.anchor = cells (done ++ bit :: todo) ++ tail) (hidx : d.idx = d.anchor + (cells done).length)
    (htail : tail = [] ∨ 60 ≤ (cells (done ++ bit :: todo)).length ∧ tail.head? = some 8000) :
    ∃ d', detectTurn (Config.defaultWith a b) S d = .ok d' () ∧ d'.anchor = d.anchor ∧
      d'.idx = d.anchor + (cells (done ++ [bit])).length ∧ d'.runs = d.runs ++ [bitRun bit] := by
  have hsep := (balanced_windowSamples a b hS hidx (List.cons_ne_nil bit todo) (htail.imp_right And.left)).separates
  have hdrop : S.drop d.idx = List.replicate (halfCycle bit) 8000 ++
      (List.replicate (halfCycle bit) (-8000) ++ (cells todo ++ tail)) := by
    rw [hidx, ← List.drop_drop, hS, cells_append, List.append_assoc, List.drop_left, cells_cons, List.append_assoc,
      List.append_assoc]
  have hhead (x : Sample) (hx : (cells todo ++ tail).head? = some x) : x = 8000 := by
    cases todo with
    | nil =>
      rcases htail with rfl | ⟨-, htail⟩
      · cases hx
      · exact (Option.some.inj (htail.symm.trans hx)).symm
    | cons bit' todo => cases bit' <;> exact (Option.some.inj hx).symm
  have hskip : lowSkip (Config.defaultWith a b) (measureWindow (Config.defaultWith a b) S d) (cells todo ++ tail) = 0 :=
    lowSkip_eq_zero_of_head fun x hx => hhead x hx ▸ hsep.hi_not_below
  obtain ⟨hlow, hhigh⟩ := halfCycle_bounds bit
  refine ⟨_, detectTurn_run hdrop (by omega) (by rw [Config.defaultWith_lookahead]; omega) hsep, ?_, ?_, rfl⟩
  · exact if_neg (by rw [hskip, windowLen_default]; omega)
  · simp only [hskip, hidx, length_cells_snoc]
    omega

/-- As many turns as there are cycles to come scan the rest of a stream, one run for each. After the stream the buffer
may go on with another high sample. -/
theorem detectRuns_cells (a b : Addr) {S tail : List Sample} {d : DemRegs} {done todo : List Bool}
    (hS : S.drop d.anchor = cells (done ++ todo) ++ tail) (hidx : d.idx = d.anchor + (cells done).length)
    (htail : tail = [] ∨ 60 ≤ (cells (done ++ todo)).length ∧ tail.head? = some 8000) (n : Nat) :
    ∃ d', detectRuns (Config.defaultWith a b) S (n + todo.length) d = detectRuns (Config.defaultWith a b) S n d' ∧
      d'.anchor = d.anchor ∧ d'.idx = d.anchor + (cells (done ++ todo)).length ∧
      d'.runs = d.runs ++ todo.map bitRun := by
  induction todo generalizing d done with
  | nil => exact ⟨d, rfl, rfl, by rw [hidx, List.append_nil], by simp⟩
  | cons bit todo ih =>
    obtain ⟨d₁, hturn, hanchor, hidx₁, hruns⟩ := detectTurn_cell a b hS hidx htail
    have hassoc : done ++ bit :: todo = (done ++ [bit]) ++ todo := by simp
    rw [hassoc] at hS htail
    obtain ⟨d', hdetect, hanchor', hidx', hruns'⟩ := ih (hanchor ▸ hS) (hanchor ▸ hidx₁) htail
    have hlt : d.idx < S.length := by
      have hlen := congrArg List.length hS
      obtain ⟨hpos, -⟩ := halfCycle_bounds bit
      rw [List.length_drop, List.length_append, cells_append, List.length_append, length_cells_snoc] at hlen
      omega
    refine ⟨d', ?_, hanchor'.trans hanchor, by rw [hidx', hanchor, hassoc], by simp [hruns', hruns]⟩
    rw [List.length_cons, ← Nat.add_assoc, detectRuns, if_pos hlt, hturn, Res.bind_ok, hdetect]

theorem detectRuns_of_length_le (cfg : Config) {S : List Sample} {d : DemRegs} (h : S.length ≤ d.idx) (n : Nat) :
    detectRuns cfg S n d = .ok d () := by
  cases n with
  | zero => rfl
  | succ n => exact if_neg (by omega)

/-- The whole stream is scanned with turns to spare, and the anchor is never moved. -/
theorem detectRuns_stream (a b : Addr) (d : DemRegs) (bits : List Bool) :
    ∃ d', detectRuns (Config.defaultWith a b) (cells bits) (cells bits).length (Spec.demStart d) = .ok d' () ∧
      d'.anchor = 0 ∧ d'.runs = bits.map bitRun := by
  have hfuel : (cells bits).length - bits.length + bits.length = (cells bits).length := by
    have hlen := length_cells bits
    have hcount := bits.count_le_length (a := true)
    omega
  obtain ⟨d', hdetect, hanchor, hidx, hruns⟩ := detectRuns_cells a b (S := cells bits) (d := Spec.demStart d)
    (done := []) (todo := bits) (List.append_nil _).symm rfl (.inl rfl) ((cells bits).length - bits.length)
  have hend : (cells bits).length ≤ d'.idx := hidx ▸ Nat.le_add_left _ _
  rw [hfuel, detectRuns_of_length_le _ hend] at hdetect
  exact ⟨d', hdetect, hanchor, hruns⟩

/-! ### Byte assembly (R145, R146) -/

/-- The number whose bit `k` is the `k`-th bit of the list. -/
theorem testBit_foldr_bits (g : List Bool) (k : Nat) :
    (g.foldr (fun (b : Bool) n => b.toNat + 2 * n) 0).testBit k = g.getD k false := by
  induction g generalizing k with
  | nil => simp
  | cons x g ih =>
    cases k with
    | zero => cases x <;> simp [Nat.testBit_zero]
    | succ k =>
      have hdiv (n : Nat) : (x.toNat + 2 * n) / 2 = n := by
        have hx := x.toNat_le
        omega
      rw [List.foldr_cons, Nat.testBit_succ, hdiv, ih, List.getD_cons_succ]

theorem packByte_getLsbD (g : List Bool) {k : Nat} (hk : k < 8) : (packByte g).getLsbD k = g.getD k false := by
  rw [packByte, BitVec.getLsbD_ofNat, testBit_foldr_bits]
  simp [hk]

theorem packByte_bitsOf (x : Byte) : packByte (Spec.bitsOf x) = x := by
  refine BitVec.eq_of_getLsbD_eq fun k hk => ?_
  rw [packByte_getLsbD _ hk]
  simp [Spec.bitsOf, hk]

theorem packBytes_flatMap_bitsOf (bytes : List Byte) : packBytes bytes.length (bytes.flatMap Spec.bitsOf) = bytes := by
  induction bytes with
  | nil => rfl
  | cons x bytes ih =>
    rw [List.length_cons, packBytes, List.flatMap_cons, List.take_left' (length_bitsOf x), packByte_bitsOf,
      List.drop_left' (length_bitsOf x), ih]

/-- Whole groups become bytes; the rest is counted (R148). -/
theorem assembleBytes_eq (cfg : Config) (d : DemRegs) : assembleBytes cfg d =
    .ok { d with residual := Fin.ofNat 8 d.bits.length }
      (packBytes (d.bits.length / 8) d.bits, Fin.ofNat 8 d.bits.length) := by
  unfold assembleBytes
  cases cfg.partialGroup
  rfl

/-! ### Classification of the runs of a stream (R143, R144, R150) -/

theorem classify_of_ne_nil {d : DemRegs} (h : d.runs ≠ []) : ∃ d', classify d = .ok d' () ∧ d'.anchor = d.anchor ∧
    d'.bits = (runLengths d).map (classifyRun d) ∧ runLengths d' = runLengths d :=
  ⟨_, if_neg (by simpa using h), rfl, rfl, by simp [runLengths]⟩

/-- What the cycles of some bits are classified as: 1 for a run shorter than the average. -/
def classifiedBits (bits : List Bool) : List Bool :=
  bits.map fun bit => decide (halfCycle bit * bits.length < (bits.map halfCycle).sum)

theorem length_classifiedBits (bits : List Bool) : (classifiedBits bits).length = bits.length := List.length_map _

/-- The average lies above 10 where one cycle is long, and never above 20. -/
theorem classifiedBits_of_mem_false {bits : List Bool} (h : false ∈ bits) : classifiedBits bits = bits := by
  have hle : (bits.map halfCycle).sum ≤ bits.length * 20 := by
    have hmem : ∀ n ∈ bits.map halfCycle, n ≤ 20 := List.forall_mem_map.mpr fun bit _ => (halfCycle_bounds bit).2
    simpa using List.sum_le_card_nsmul (bits.map halfCycle) 20 hmem
  have hlt : bits.length * 10 < (bits.map halfCycle).sum := by
    simpa using List.sum_lt_sum (l := bits) (fun _ => 10) halfCycle (by simp [halfCycle]) ⟨false, h, by decide⟩
  have hbit (bit : Bool) : decide (halfCycle bit * bits.length < (bits.map halfCycle).sum) = bit := by
    cases bit <;> simp [halfCycle] <;> omega
  simp [classifiedBits, hbit]

/-- Where every cycle is short, none is shorter than the average. -/
theorem classifiedBits_replicate_true (n : Nat) : classifiedBits (List.replicate n true) = List.replicate n false := by
  simp [classifiedBits, halfCycle, Nat.mul_comm]

/-- `demodulate` of the cycles of any bits: one run for each, classified and grouped. -/
theorem demodulate_cells (a b : Addr) (d : DemRegs) {bits : List Bool} (h : bits ≠ []) :
    ∃ d', demodulate (Config.defaultWith a b) d (cells bits) =
        .ok d' (packBytes (bits.length / 8) (classifiedBits bits), Fin.ofNat 8 bits.length) ∧
      d'.anchor = 0 ∧ runLengths d' = bits.map halfCycle := by
  obtain ⟨d₁, hdetect, hanchor, hruns⟩ := detectRuns_stream a b d bits
  obtain ⟨d₂, hclassify, hanchor', hbits, hlengths⟩ := classify_of_ne_nil (d := d₁) (by simpa [hruns] using h)
  have hlengths₁ : runLengths d₁ = bits.map halfCycle := by
    rw [runLengths, hruns, List.map_map]
    rfl
  have hbits' : d₂.bits = classifiedBits bits := by
    rw [hbits, classifiedBits, hlengths₁, List.map_map]
    refine List.map_congr_left fun bit _ => ?_
    simp [classifyRun, shorterThanAverage, hlengths₁, hruns]
  refine ⟨{ d₂ with residual := Fin.ofNat 8 d₂.bits.length }, ?_, hanchor'.trans hanchor, hlengths.trans hlengths₁⟩
  have hstart : demodulate (Config.defaultWith a b) d (cells bits) = assembleBytes (Config.defaultWith a b) d₂ := by
    rw [demodulate, ← Spec.demStart, hdetect, Res.bind_ok, hclassify, Res.bind_ok]
  rw [hstart, assembleBytes_eq, hbits', length_classifiedBits]

/-- Without a sample there is no turn, so no run (R143). -/
theorem demodulate_nil (cfg : Config) (d : DemRegs) :
    demodulate cfg d [] = .raise (Spec.demStart d) .noSignalError 0 := rfl

theorem exec_demod (S : List Sample) (s : State) :
    exec (.demod S) s = s.conclude (fun d => { s.work with dem := d }) (fun r => .demodulated r.1 r.2)
      (demodulate s.cfg s.work.dem S) := rfl

/-! ### The noiseless round trip (R150) -/

theorem bitsOf_ones : Spec.bitsOf 0xFF = List.replicate 8 true := by decide

theorem bitsOf_zero : Spec.bitsOf 0x00 = List.replicate 8 false := by decide

/-- The only byte without a 0 bit is 0xFF. -/
theorem false_mem_bitsOf {x : Byte} (h : x ≠ 0xFF) : false ∈ Spec.bitsOf x := by
  by_contra hmem
  refine h (BitVec.eq_of_getLsbD_eq fun k hk => ?_)
  have hbit : x.getLsbD k = true := by
    by_contra hfalse
    exact hmem (List.mem_map.mpr ⟨k, List.mem_range.mpr hk, Bool.eq_false_of_not_eq_true hfalse⟩)
  rw [hbit]
  exact (BitVec.getLsbD_allOnes.trans (decide_eq_true hk)).symm

theorem flatMap_bitsOf_replicate {x : Byte} {bit : Bool} (h : Spec.bitsOf x = List.replicate 8 bit) (n : Nat) :
    (List.replicate n x).flatMap Spec.bitsOf = List.replicate (n * 8) bit := by
  rw [List.flatMap_replicate, h, List.flatten_replicate_replicate]

/-- `DEMOD` of the stream of some bytes delivers the bytes whose bits the runs are classified as. -/
theorem exec_demod_stream {a b : Addr} {s : State} (hcfg : s.cfg = Config.defaultWith a b) {bytes bytes' : List Byte}
    (hne : bytes ≠ []) (hlen : bytes'.length = bytes.length)
    (hbits : classifiedBits (bytes.flatMap Spec.bitsOf) = bytes'.flatMap Spec.bitsOf) :
    ∃ t, exec (.demod (Spec.stream s.cfg bytes)) s = .next t ∧ t.err = 0 ∧ t.result = .demodulated bytes' 0 := by
  have hcount := length_flatMap_bitsOf bytes
  have hpos := List.length_pos_iff.mpr hne
  have hbne : bytes.flatMap Spec.bitsOf ≠ [] := List.ne_nil_of_length_pos (by omega)
  obtain ⟨d, hdem, -, -⟩ := demodulate_cells a b s.work.dem hbne
  have hresidual : Fin.ofNat 8 (8 * bytes.length) = 0 := Fin.ext (Nat.mul_mod_right 8 _)
  rw [hbits, hcount, Nat.mul_div_cancel_left _ (by decide), ← hlen, packBytes_flatMap_bitsOf, hlen, hresidual] at hdem
  rw [exec_demod, hcfg, stream_default, hdem]
  exact ⟨_, rfl, s.deliver_err _ _, s.deliver_result _ _⟩

/-- Settles O54: a 0 among the bits puts the average between the two run lengths; without one no run is below it. -/
theorem demodRecoversStream : Obligations.DemodRecoversStream := by
  intro a b s bytes hcfg
  refine ⟨⟨_, exec_encstrm bytes s, s.deliver_result _ _⟩, fun hne hzero => ?_, fun hne hones => ?_, fun hnil => ?_⟩
  · obtain ⟨x, hx, hxne⟩ := hzero
    exact exec_demod_stream hcfg hne rfl
      (classifiedBits_of_mem_false (List.mem_flatMap.mpr ⟨x, hx, false_mem_bitsOf hxne⟩))
  · refine exec_demod_stream hcfg hne List.length_replicate ?_
    rw [List.eq_replicate_iff.mpr ⟨rfl, hones⟩, List.length_replicate, flatMap_bitsOf_replicate bitsOf_ones,
      flatMap_bitsOf_replicate bitsOf_zero, classifiedBits_replicate_true]
  · subst hnil
    rw [show Spec.stream s.cfg [] = [] from rfl, exec_demod, demodulate_nil]
    exact s.conclude_raise_fails _ _ _ _ _

end Sys2Proof.Machine

/-! Demodulator DEM, the comparisons as rationals (spec/43_fsk_demodulator.md, R134): each denominator is positive, so
multiplying it out keeps the order, and the comparison that results is the one of integers that the model makes; O45. -/

namespace Sys2Proof.Machine

/-- The legal column of R19: the divisor of the trigger is not 0. -/
theorem triggerDiv_pos (cfg : Config) : 0 < cfg.triggerDiv := by
  obtain ⟨-, -, -, -, -, -, -, -, htrigger⟩ := cfg.legal
  exact htrigger

/-- A whole number is below a fraction with a positive denominator exactly if its product with it is below the
numerator. -/
theorem intCast_lt_ratio_iff {n : Nat} (hn : 0 < n) (v a : Int) : (v : ℚ) < (a : ℚ) / n ↔ v * n < a := by
  rw [lt_div_iff₀ (Nat.cast_pos.mpr hn)]
  norm_cast

theorem ratio_lt_intCast_iff {n : Nat} (hn : 0 < n) (v a : Int) : (a : ℚ) / n < v ↔ a < v * n := by
  rw [div_lt_iff₀ (Nat.cast_pos.mpr hn)]
  norm_cast

/-- The trigger `mean + span / TRIGGER_DIV` as one fraction, over the product of the two denominators. -/
theorem trigger_eq_ratio {wn div : Nat} (hwn : 0 < wn) (hdiv : 0 < div) (wsum : Int) (wspan : Nat) :
    (wsum : ℚ) / wn + (wspan : ℚ) / div = ((div * wsum + wn * wspan : Int) : ℚ) / (div * wn : Nat) := by
  have hwn' : (wn : ℚ) ≠ 0 := Nat.cast_ne_zero.mpr hwn.ne'
  have hdiv' : (div : ℚ) ≠ 0 := Nat.cast_ne_zero.mpr hdiv.ne'
  rw [div_add_div _ _ hwn' hdiv']
  push_cast
  ring

theorem shorterThanAverage_iff (k rsum length : Nat) : shorterThanAverage k rsum length = true ↔ length * k < rsum :=
  decide_eq_true_iff

/-- The mean of a window that is not empty (R134). -/
theorem aboveMean_iff_rat {d : DemRegs} (hwn : 0 < d.wn) (v : Sample) :
    aboveMean d v = true ↔ (v : ℚ) > (d.wsum : ℚ) / d.wn := by
  rw [aboveMean_iff, gt_iff_lt, ratio_lt_intCast_iff hwn]

/-- The trigger over a window that is not empty (R134). -/
theorem belowTrigger_iff_rat (cfg : Config) {d : DemRegs} (hwn : 0 < d.wn) (v : Sample) :
    belowTrigger cfg d v = true ↔ (v : ℚ) < (d.wsum : ℚ) / d.wn + (d.wspan : ℚ) / cfg.triggerDiv := by
  have hdiv := triggerDiv_pos cfg
  rw [belowTrigger_iff, trigger_eq_ratio hwn hdiv, intCast_lt_ratio_iff (Nat.mul_pos hdiv hwn), Nat.cast_mul,
    mul_comm v]

/-- The average of at least one run (R134, R144). -/
theorem shorterThanAverage_iff_rat {k : Nat} (hk : 0 < k) (rsum length : Nat) :
    shorterThanAverage k rsum length = true ↔ (length : ℚ) < (rsum : ℚ) / k := by
  have hratio := intCast_lt_ratio_iff hk length rsum
  rw [Int.cast_natCast, Int.cast_natCast] at hratio
  rw [shorterThanAverage_iff, hratio]
  norm_cast

/-- Settles O45: multiplying out a positive denominator turns each comparison of rationals into the model's. -/
theorem comparisonsAreExact : Obligations.ComparisonsAreExact :=
  ⟨fun _ v hwn => aboveMean_iff_rat hwn v, fun cfg _ v hwn => belowTrigger_iff_rat cfg hwn v,
    fun _ rsum length hk => shorterThanAverage_iff_rat hk rsum length⟩

end Sys2Proof.Machine

/-! Pipeline PIPE (spec/44_pipeline.md, R155, R156): the split as `List.take` and `List.drop` clip it, the two ends of
`demodulate`, one operation concluded after another has delivered, and the obligations O56 and O57. -/

namespace Sys2Proof.Machine

/-! ### ENCAUD (R155) -/

/-- Clipping the cut to the buffer changes neither part: past the end there is nothing to take or to keep. -/
theorem encodeAudio_eq (cfg : Config) (m : ModRegs) (image : List Byte) :
    encodeAudio cfg m image = modulate cfg m (image.take cfg.splitLen) (image.drop cfg.splitLen) := by
  have htake : image.take (min cfg.splitLen image.length) = image.take cfg.splitLen := List.take_eq_take_min.symm
  have hdrop : image.drop (min cfg.splitLen image.length) = image.drop cfg.splitLen := List.drop_eq_drop_min.symm
  rw [encodeAudio, htake, hdrop]

theorem exec_encaud (image : List Byte) (s : State) :
    exec (.encaud image) s = exec (.modul (image.take s.cfg.splitLen) (image.drop s.cfg.splitLen)) s :=
  congrArg s.deliverSamples (encodeAudio_eq s.cfg s.work.mod image)

/-- Settles O56: `ENCAUD` is `MODUL` of the two parts, whose result is known (R120). -/
theorem encaudOutcome : Obligations.EncaudOutcome := by
  intro s image
  refine ⟨exec_encaud image s, ?_⟩
  rw [exec_encaud, exec_modul]
  exact ⟨_, rfl, s.deliver_err _ _, s.deliver_result _ _⟩

/-! ### `demodulate` ends with its result or a failure -/

theorem Res.bind_ne_refuse {ρ α β : Type} {x : Res ρ α} {k : ρ → α → Res ρ β} {why : Refusal} (hx : x ≠ .refuse why)
    (hk : ∀ r a, k r a ≠ .refuse why) : x.bind k ≠ .refuse why := by
  rw [ne_eq, Res.bind_eq_refuse]
  rintro (hrefuse | ⟨r, a, -, hrefuse⟩)
  · exact hx hrefuse
  · exact hk r a hrefuse

section DemNeRefuse
variable {cfg : Config} {S : List Sample} {d : DemRegs} {why : Refusal}

theorem scanHigh_ne_refuse : scanHigh cfg S d ≠ .refuse why := by
  rw [scanHigh]
  split
  · split <;> simp
  · simp

theorem detectTurn_ne_refuse : detectTurn cfg S d ≠ .refuse why :=
  Res.bind_ne_refuse scanHigh_ne_refuse fun _ _ => by simp

theorem detectRuns_ne_refuse (n : Nat) : detectRuns cfg S n d ≠ .refuse why := by
  induction n generalizing d with
  | zero => simp [detectRuns]
  | succ n ih =>
    rw [detectRuns]
    split
    · exact Res.bind_ne_refuse detectTurn_ne_refuse fun _ _ => ih
    · simp

theorem classify_ne_refuse : classify d ≠ .refuse why := by
  rw [classify]
  split <;> simp

theorem demodulate_ne_refuse : demodulate cfg d S ≠ .refuse why :=
  Res.bind_ne_refuse (detectRuns_ne_refuse _) fun _ _ =>
    Res.bind_ne_refuse classify_ne_refuse fun _ _ => by simp [assembleBytes_eq]

end DemNeRefuse

/-! ### DECAUD (R156) -/

theorem Failure.code_ne_zero (e : Failure) : e.code ≠ 0 := by cases e <;> decide

section Conclude
variable {ρ σ α β : Type} (s : State) (out : β → Result)

theorem State.conclude_lift (put : σ → Work) (f : ρ → σ) (g : α → β) (x : Res ρ α) :
    s.conclude put out (x.lift f g) = s.conclude (put ∘ f) (out ∘ g) x := by
  cases x <;> rfl

/-- The end of an operation overwrites all that an earlier delivery wrote. -/
theorem State.conclude_deliver (w : Work) (r : Result) (put : ρ → Work) (x : Res ρ β) :
    (s.deliver w r).conclude put out x = s.conclude put out x := by
  cases x <;> rfl

end Conclude

theorem exec_disasm (image : List Byte) (s : State) :
    exec (.disasm image) s = s.conclude s.work.putFrmSeq (fun r => .program r.1 r.2)
      (disassemble s.cfg s.work.frmSeq image) := rfl

theorem exec_decaud (S : List Sample) (s : State) :
    exec (.decaud S) s = s.conclude id (fun r => .program r.1 r.2) (decodeAudio s.cfg s.work S) := rfl

section Decaud
variable {s : State} {S : List Sample} {d : DemRegs}

/-- A failure of `demodulate` is a failure of `DECAUD`, with the same `info`. -/
theorem exec_decaud_of_raise {e : Failure} {n : Nat} (h : demodulate s.cfg s.work.dem S = .raise d e n) :
    exec (.decaud S) s = .next (s.takeFailure { s.work with dem := d } e n) := by
  rw [exec_decaud, decodeAudio, h, Res.lift_raise, Res.bind_raise]
  rfl

/-- Bytes that `demodulate` delivers are disassembled as if `DISASM` were called next. -/
theorem exec_decaud_of_ok {r : List Byte × Fin 8} (h : demodulate s.cfg s.work.dem S = .ok d r) (shown : Result) :
    exec (.decaud S) s = exec (.disasm r.1) (s.deliver { s.work with dem := d } shown) := by
  rw [exec_decaud, decodeAudio, h, Res.lift_ok, Res.bind_ok, State.conclude_lift, exec_disasm,
    State.conclude_deliver]
  rfl

end Decaud

/-- Settles O57, on the two ways `demodulate` can end. -/
theorem decaudComposes : Obligations.DecaudComposes := by
  intro s S
  rw [exec_demod]
  cases hdem : demodulate s.cfg s.work.dem S with
  | ok d r =>
    refine ⟨_, rfl, fun herr => absurd (s.deliver_err _ _) herr, fun _ => ?_⟩
    exact ⟨r.1, r.2, s.deliver_result _ _, exec_decaud_of_ok hdem _⟩
  | raise d e n =>
    exact ⟨_, rfl, fun _ => exec_decaud_of_raise hdem, fun herr => absurd herr e.code_ne_zero⟩
  | refuse why => exact absurd hdem demodulate_ne_refuse

end Sys2Proof.Machine

/-! Decoder and encoder (spec/30_encoding.md, R61 to R67, R78, R79): the extent of a block's body, what decodes as a
block, and the obligations O13 to O15. -/

namespace Sys2Proof

/-! ### The extent of a block's body (R64) -/

theorem blockBody_of_fits {body : List Byte} (h : bodyFits body = true) : blockBody body = body := by
  cases body with
  | nil => rfl
  | cons len rest => rw [blockBody, List.take_of_length_le (of_decide_eq_true h)]

theorem bodyFits_blockBody (bytes : List Byte) : bodyFits (blockBody bytes) = true := by
  cases bytes with
  | nil => rfl
  | cons len rest => exact decide_eq_true (List.length_take_le _ _)

theorem exists_eq_blockBody_append (bytes : List Byte) : ∃ rest, bytes = blockBody bytes ++ rest := by
  cases bytes with
  | nil => exact ⟨[], rfl⟩
  | cons len rest => exact ⟨rest.drop (len.toNat + 2), by simp [blockBody]⟩

/-! ### What decodes -/

/-- A block instruction is selected by its lead-in, sync and type bytes (R66, R79). -/
theorem decodeBlk_eq_ok {cfg : Config} {bytes : List Byte} {i : Instr} (h : decodeBlk cfg bytes = .ok i) :
    ∃ type rest, bytes = cfg.leaderByte :: cfg.syncByte :: type :: rest ∧
      ((type = 0x00 ∧ i = .namefile (blockBody rest)) ∨ (type = 0x01 ∧ i = .data (blockBody rest)) ∨
        (type = 0xFF ∧ i = .eof (blockBody rest))) := by
  unfold decodeBlk at h
  split at h
  · cases h
  split at h
  case isFalse => cases h
  case isTrue hlead =>
    split at h
    · cases h
    split at h
    case isFalse => cases h
    case isTrue hsync =>
      split at h
      · cases h
      rename_i type rest
      refine ⟨type, rest, by rw [hlead, hsync], ?_⟩
      split at h
      · cases h; exact .inl ⟨‹_›, rfl⟩
      split at h
      · cases h; exact .inr (.inl ⟨‹_›, rfl⟩)
      split at h
      · cases h; exact .inr (.inr ⟨‹_›, rfl⟩)
      · cases h

/-- A row of R62 that reads an instruction reads the one whose encoding the call is, and has checked its samples; every
other case of the decoder is an error. -/
theorem decodeOp_eq_ok (cfg : Config) {code : Byte} {args : List Arg} {i : Instr} (h : decodeOp code args = .ok i) :
    encode cfg i = .op code args ∧ i.wf = true := by
  revert h
  fun_cases decodeOp code args <;> intro h <;> cases h
  all_goals simp_all [encode, Instr.wf]

/-- Settles O13, by cases on the instruction: a call's code and argument kinds are its row's, a sample buffer and a
block's body pass the check that well-formedness makes. -/
theorem decodeOfEncode : Obligations.DecodeOfEncode := by
  intro cfg i hwf
  cases i with
  | demod S => exact if_pos hwf
  | decaud S => exact if_pos hwf
  | namefile body => simp [encode, decode, decodeBlk, blockBody_of_fits hwf]
  | data body => simp [encode, decode, decodeBlk, blockBody_of_fits hwf]
  | eof body => simp [encode, decode, decodeBlk, blockBody_of_fits hwf]
  | _ => rfl

/-- Settles O14: a call is its own encoding; a block is that of the instruction read and what its extent leaves. -/
theorem encodeOfDecode : Obligations.EncodeOfDecode := by
  refine ⟨fun cfg code args i h => decodeOp_eq_ok cfg h, fun cfg bytes i h => ?_⟩
  obtain ⟨type, body, rfl, hrow⟩ := decodeBlk_eq_ok h
  obtain ⟨rest, hbody⟩ := exists_eq_blockBody_append body
  have hfits := bodyFits_blockBody body
  rcases hrow with ⟨rfl, rfl⟩ | ⟨rfl, rfl⟩ | ⟨rfl, rfl⟩ <;>
    exact ⟨hfits, _, rest, rfl, by simp [← hbody]⟩

/-- Settles O15: each word is a closed term, on which the decoder is evaluated. -/
theorem tableWordsDecode : Obligations.TableWordsDecode := by
  unfold Obligations.TableWordsDecode
  decide

end Sys2Proof

/-! The tape walk, one turn at a time (spec/41_tape_stream.md, R103, R104): a step of a walk is a turn of the loop of
`disassemble`, what a turn does to the registers, what it does with each kind of block, and the obligations O28 to
O33. -/

namespace Sys2Proof.Machine

/-! ### A step of a walk is a turn (R104) -/

/-- The reader of blocks looks at no byte past the block's extent (R64). -/
theorem decodeBlockAt_blockBody (cfg : Config) (f : FrmRegs) (base : Nat) (type : Byte) (rest : List Byte) :
    decodeBlockAt cfg f base (cfg.leaderByte :: cfg.syncByte :: type :: blockBody rest) =
      decodeBlockAt cfg f base (cfg.leaderByte :: cfg.syncByte :: type :: rest) := by
  match rest with
  | [] => rfl
  | len :: tail =>
    by_cases hshort : tail.length ≤ len.toNat + 2
    · rw [blockBody, List.take_of_length_le hshort]
    obtain ⟨payload, more, rfl, hp, hfront⟩ := exists_blockFront cfg type (len := len) (rest := tail) (by omega)
    have hp255 : payload.length ≤ 255 := by have := len.isLt; omega
    have hcut : cfg.leaderByte :: cfg.syncByte :: type :: blockBody (len :: (payload ++ more)) =
        blockFront cfg type payload (more.take 2) := by
      rw [blockBody, ← hp, List.take_length_add_append, blockFront_eq_cons, hp, BitVec.ofNat_toNat, BitVec.setWidth_eq]
    have hread (f : FrmRegs) (b : Nat) {k : Nat} (hk : k < 2) : memRead f (more.take 2) b k = memRead f more b k := by
      rw [memRead, memRead, List.getElem?_take_of_lt hk]
    rw [hcut, hfront, decodeBlockAt_payload cfg f base type hp255, decodeBlockAt_payload cfg f base type hp255]
    simp only [hread _ _ (show 0 < 2 by decide), hread _ _ (show 1 < 2 by decide)]

theorem walkTurn_of_sync (cfg : Config) (u : FrmSeq) (rest : List Byte) :
    walkTurn cfg u (cfg.leaderByte :: cfg.syncByte :: rest) =
      walkBlock cfg u (cfg.leaderByte :: cfg.syncByte :: rest) := by
  simp [walkTurn]

/-- A block instruction is the turn of the walk at its block (R104). -/
theorem exec_eq_walkTurn {s : State} {bytes : List Byte} {i : Instr} (h : decodeBlk s.cfg bytes = .ok i) :
    exec i s = s.concludeTurn (walkTurn s.cfg s.work.frmSeq bytes) := by
  obtain ⟨type, rest, rfl, hrow⟩ := decodeBlk_eq_ok h
  have hexec : exec i s = execBlock type (blockBody rest) s := by
    rcases hrow with ⟨rfl, rfl⟩ | ⟨rfl, rfl⟩ | ⟨rfl, rfl⟩ <;> rfl
  rw [hexec, execBlock, walkTurn_of_sync, walkBlock, walkBlock, decodeBlockAt_blockBody]

theorem step_walk {s : State} {image : List Byte} (h : s.request = .walk image) :
    step s = s.concludeTurn (walkTurn s.cfg s.work.frmSeq (image.drop s.work.seq.off)) := by
  simp only [step, fetch, h]
  cases hdec : decodeBlk s.cfg (image.drop s.work.seq.off) with
  | ok i => exact exec_eq_walkTurn hdec
  | error e => simp only [notDecoded, h]

/-! ### What a turn does to the registers -/

/-- The registers of SEQ with the cursor moved on. -/
def FrmSeq.advance (u : FrmSeq) (n : Nat) : FrmSeq := { u with seq := { u.seq with off := u.seq.off + n } }

theorem walkBlock_eq_ok {cfg : Config} {u u' : FrmSeq} {rest : List Byte}
    {r : Option (NamefileHeader × List Byte)} (h : walkBlock cfg u rest = .ok u' r) :
    ∃ f blk n, decodeBlockAt cfg u.frm u.seq.off rest = .ok f (blk, n) ∧ 0 < n ∧ n ≤ rest.length ∧
      interpretBlock cfg ({ u with frm := f }.advance n) blk = .ok u' r := by
  obtain ⟨v, ⟨blk, n⟩, hlift, hint⟩ := Res.bind_eq_ok.mp h
  obtain ⟨f, _, hdec, rfl, rfl⟩ := Res.lift_eq_ok.mp hlift
  obtain ⟨len, -, -, -, -, -, hle, -, -, hn, -⟩ := decodeBlockAt_eq_ok hdec
  simp only at hn hdec
  exact ⟨f, blk, n, hdec, by omega, by omega, hint⟩

/-- A turn that neither fails nor is refused has passed over a leader byte or interpreted a block (R103, R104). -/
theorem walkTurn_cases {cfg : Config} {u u' : FrmSeq} {rest : List Byte} {r : Option (NamefileHeader × List Byte)}
    (h : walkTurn cfg u rest = .ok u' r) :
    (0 < rest.length ∧ u' = u.advance 1 ∧ r = none) ∨
      ∃ f blk n, 0 < n ∧ n ≤ rest.length ∧ interpretBlock cfg ({ u with frm := f }.advance n) blk = .ok u' r := by
  match rest with
  | [] => cases h
  | b0 :: rest =>
    simp only [walkTurn] at h
    split at h
    · cases h
    split at h
    · obtain ⟨f, blk, n, -, hpos, hle, hint⟩ := walkBlock_eq_ok h
      exact .inr ⟨f, blk, n, hpos, hle, hint⟩
    · cases h
      exact .inl ⟨Nat.succ_pos _, rfl, rfl⟩

/-- Such a turn moves the cursor on inside the image, leaves `SEQ.POS` alone, and collects nothing before a header. -/
theorem walkTurn_eq_ok {cfg : Config} {u u' : FrmSeq} {rest : List Byte} {r : Option (NamefileHeader × List Byte)}
    (h : walkTurn cfg u rest = .ok u' r) :
    u.seq.off < u'.seq.off ∧ u'.seq.off ≤ u.seq.off + rest.length ∧ u'.seq.pos = u.seq.pos ∧
      ((u.seq.hdrValid = false → u.seq.code = []) → u'.seq.hdrValid = false → u'.seq.code = []) := by
  obtain ⟨hlen, rfl, -⟩ | ⟨f, blk, n, hpos, hle, hint⟩ := walkTurn_cases h
  · exact ⟨Nat.lt_succ_self _, Nat.add_le_add_left hlen _, rfl, id⟩
  · obtain ⟨-, hoff, hpos', hrow⟩ := interpretBlock_eq_ok hint
    have hoff' : u'.seq.off = u.seq.off + n := hoff
    refine ⟨by omega, by omega, hpos', fun hcode hinvalid => ?_⟩
    rcases hrow with ⟨-, -, -, -, hvalid, -⟩ | ⟨-, -, hvalid, -, hseq⟩ | ⟨-, -, -, rfl, -⟩
    · simp [hvalid] at hinvalid
    · rw [hseq] at hinvalid
      simp [hvalid] at hinvalid
    · exact hcode hinvalid

/-! ### A block at the cursor -/

section WalkBlock
variable {cfg : Config} {u : FrmSeq} {rest : List Byte}

theorem walkBlock_of_raise {f : FrmRegs} {e : Failure} {n : Nat}
    (h : decodeBlockAt cfg u.frm u.seq.off rest = .raise f e n) :
    walkBlock cfg u rest = .raise { u with frm := f } e n := by
  rw [walkBlock, h, Res.lift_raise, Res.bind_raise]

/-- A whole block with a right checksum is interpreted with the cursor past it. -/
theorem walkBlock_whole (type : Byte) {payload : List Byte} (hlen : payload.length ≤ 255) (trailer : Byte)
    (more : List Byte) :
    walkBlock cfg u (blockFront cfg type payload (Spec.checksum type payload :: trailer :: more)) =
      interpretBlock cfg ({ u with frm := Spec.parsed u.frm type payload u.seq.off }.advance (6 + payload.length))
        { blockType := type, payload := payload, checksum := Spec.checksum type payload } := by
  rw [walkBlock, decodeBlockAt_whole cfg _ _ type hlen, Res.lift_ok, Res.bind_ok]
  rfl

end WalkBlock

/-! ### Interpreting a block (R104) -/

section InterpretBlock
variable (cfg : Config) {u : FrmSeq} (payload : List Byte) (c : Byte)

theorem interpretBlock_namefile (h : Vector Byte 15) (hv : u.seq.hdrValid = false) :
    interpretBlock cfg u { blockType := 0x00, payload := h.toList, checksum := c } =
      .ok { u with seq := { u.seq with hdr := h, hdrValid := true } } none := by
  simp [interpretBlock, hv, cfg.namefileLen_eq, Vector.toList]

theorem interpretBlock_namefile_second (hv : u.seq.hdrValid = true) :
    interpretBlock cfg u { blockType := 0x00, payload := payload, checksum := c } = .refuse .secondNamefile := by
  simp [interpretBlock, hv]

theorem interpretBlock_namefile_length (hv : u.seq.hdrValid = false) (hlen : payload.length ≠ 15) :
    interpretBlock cfg u { blockType := 0x00, payload := payload, checksum := c } = .refuse .namefileLength := by
  simp [interpretBlock, hv, cfg.namefileLen_eq, hlen]

theorem interpretBlock_data (hv : u.seq.hdrValid = true) (hlen : 1 ≤ payload.length) :
    interpretBlock cfg u { blockType := 0x01, payload := payload, checksum := c } =
      .ok { u with seq := { u.seq with code := u.seq.code ++ payload } } none := by
  have hne : payload ≠ [] := List.ne_nil_of_length_pos hlen
  simp [interpretBlock, hv, hne]

theorem interpretBlock_data_first (hv : u.seq.hdrValid = false) :
    interpretBlock cfg u { blockType := 0x01, payload := payload, checksum := c } = .refuse .dataBeforeNamefile := by
  simp [interpretBlock, hv]

theorem interpretBlock_data_empty (hv : u.seq.hdrValid = true) :
    interpretBlock cfg u { blockType := 0x01, payload := [], checksum := c } = .refuse .emptyDataBlock := by
  simp [interpretBlock, hv]

theorem interpretBlock_eof (hv : u.seq.hdrValid = true) :
    interpretBlock cfg u { blockType := 0xFF, payload := [], checksum := c } =
      .ok u (some (parseNamefile u.seq.hdr, u.seq.code)) := by
  simp [interpretBlock, hv]

theorem interpretBlock_eof_first (hv : u.seq.hdrValid = false) :
    interpretBlock cfg u { blockType := 0xFF, payload := payload, checksum := c } = .refuse .eofBeforeNamefile := by
  simp [interpretBlock, hv]

theorem interpretBlock_eof_payload (hv : u.seq.hdrValid = true) (hne : payload ≠ []) :
    interpretBlock cfg u { blockType := 0xFF, payload := payload, checksum := c } = .refuse .eofWithPayload := by
  simp [interpretBlock, hv, hne]

theorem interpretBlock_reserved {type : Byte} (h0 : type ≠ 0x00) (h1 : type ≠ 0x01) (hF : type ≠ 0xFF) :
    interpretBlock cfg u { blockType := type, payload := payload, checksum := c } = .refuse .reservedBlockType := by
  simp only [interpretBlock, if_neg h0, if_neg h1, if_neg hF]

end InterpretBlock

/-! ### The block rows on a whole block -/

theorem exec_namefile (body : List Byte) (s : State) : exec (.namefile body) s = execBlock 0x00 body s := rfl
theorem exec_data (body : List Byte) (s : State) : exec (.data body) s = execBlock 0x01 body s := rfl
theorem exec_eof (body : List Byte) (s : State) : exec (.eof body) s = execBlock 0xFF body s := rfl

theorem execBlock_whole (s : State) (type : Byte) {payload : List Byte} (hlen : payload.length ≤ 255) (trailer : Byte) :
    execBlock type (Spec.body type payload trailer) s =
      s.concludeTurn (interpretBlock s.cfg
        ({ s.work.frmSeq with frm := Spec.parsed s.work.frm type payload s.work.seq.off }.advance (6 + payload.length))
        { blockType := type, payload := payload, checksum := Spec.checksum type payload }) :=
  congrArg s.concludeTurn (walkBlock_whole (u := s.work.frmSeq) type hlen trailer [])

/-- A whole block that interpretation refuses. -/
theorem execBlock_refused {s : State} {type : Byte} {payload : List Byte} {why : Refusal}
    (hlen : payload.length ≤ 255) (trailer : Byte)
    (h : ∀ u : FrmSeq, u.seq.hdrValid = s.work.seq.hdrValid →
      interpretBlock s.cfg u { blockType := type, payload := payload, checksum := Spec.checksum type payload } =
        .refuse why) :
    execBlock type (Spec.body type payload trailer) s = .refused why := by
  rw [execBlock_whole s type hlen, h _ rfl]
  rfl

/-- Settles O28: a whole block, interpreted as a first header. -/
theorem namefileBlockOutcome : Obligations.NamefileBlockOutcome := by
  intro s h trailer hv
  rw [exec_namefile, execBlock_whole s 0x00 (by simp), interpretBlock_namefile s.cfg _ h hv]
  simp [State.concludeTurn, FrmSeq.advance, Work.putFrmSeq]

/-- Settles O29: a whole block, interpreted as data. -/
theorem dataBlockOutcome : Obligations.DataBlockOutcome := by
  intro s payload trailer hv hpos hlen
  rw [exec_data, execBlock_whole s 0x01 hlen, interpretBlock_data s.cfg _ _ hv hpos]
  simp [State.concludeTurn, FrmSeq.advance, Work.putFrmSeq, Nat.add_assoc]

/-- Settles O30: a whole block, interpreted as the end. -/
theorem eofBlockOutcome : Obligations.EofBlockOutcome := by
  intro s trailer hv
  rw [exec_eof, execBlock_whole s 0xFF (Nat.zero_le _), interpretBlock_eof s.cfg _ hv]
  exact ⟨s.deliver_delivers _ _, _, rfl, s.deliver_request _ _⟩

/-- Settles O31: the row of each type refuses by `hdrValid` and the payload's length; a reserved type by itself. -/
theorem blockRefusals : Obligations.BlockRefusals := by
  intro s payload trailer hlen
  refine ⟨fun hv => ?_, fun hv hne => ?_, fun hv => ?_, fun hv => ?_, fun hv => ?_, fun hv hne => ?_, ?_⟩
  · exact execBlock_refused hlen trailer fun u hu => interpretBlock_namefile_second s.cfg _ _ (hu.trans hv)
  · exact execBlock_refused hlen trailer fun u hu => interpretBlock_namefile_length s.cfg _ _ (hu.trans hv) hne
  · exact execBlock_refused hlen trailer fun u hu => interpretBlock_data_first s.cfg _ _ (hu.trans hv)
  · exact execBlock_refused (Nat.zero_le _) trailer fun u hu => interpretBlock_data_empty s.cfg _ (hu.trans hv)
  · exact execBlock_refused hlen trailer fun u hu => interpretBlock_eof_first s.cfg _ _ (hu.trans hv)
  · exact execBlock_refused hlen trailer fun u hu => interpretBlock_eof_payload s.cfg _ _ (hu.trans hv) hne
  · intro type image post h0 h1 hF hwalk hdrop
    rw [step_walk hwalk, hdrop, blockWithTrailer_append, blockFront_eq_cons, walkTurn_of_sync, ← blockFront_eq_cons,
      walkBlock_whole type hlen, interpretBlock_reserved s.cfg _ _ h0 h1 hF]
    rfl

/-! ### The failures of a block (R87, R104) -/

theorem State.concludeTurn_raise_failsAtRest (s : State) (u : FrmSeq) (e : Failure) (n : Nat) :
    Spec.FailsAtRest (s.concludeTurn (.raise u e n)) s e n :=
  ⟨⟨_, rfl, State.takeFailure_err .., State.takeFailure_info .., State.takeFailure_result .., State.takeFailure_cfg ..⟩,
    _, rfl, State.takeFailure_request ..⟩

/-- A block cut short anywhere after its type byte: the index of the first byte that does not exist. -/
theorem decodeBlockAt_cut (cfg : Config) (f0 : FrmRegs) (base : Nat) (type : Byte) {payload : List Byte}
    (hlen : payload.length ≤ 255) (trailer : Byte) {k : Nat} (hk : k ≤ payload.length + 2) :
    ∃ f, decodeBlockAt cfg f0 base (cfg.leaderByte :: cfg.syncByte :: type ::
      (Spec.body type payload trailer).take k) = .raise f .truncatedInputError (base + 3 + k) := by
  match k with
  | 0 => exact ⟨_, decodeBlockAt_cut_after_type cfg f0 base type⟩
  | j + 1 =>
    have hbody : (Spec.body type payload trailer).take (j + 1) = BitVec.ofNat 8 payload.length ::
        (payload ++ [Spec.checksum type payload, trailer]).take j := rfl
    have hidx : base + 3 + (j + 1) = base + 4 + j := by omega
    rw [hbody, hidx]
    rcases Nat.lt_trichotomy j payload.length with hj | rfl | hj
    · have htake : ((payload ++ [Spec.checksum type payload, trailer]).take j).length = j := by simp; omega
      obtain ⟨f, hf⟩ := decodeBlockAt_cut_in_payload cfg f0 base type (len := BitVec.ofNat 8 payload.length)
        (tail := (payload ++ [Spec.checksum type payload, trailer]).take j)
        (by rwa [htake, toNat_lengthByte hlen])
      exact ⟨f, by rw [hf, htake]⟩
    · have hfront := decodeBlockAt_cut_after_payload cfg f0 base type hlen
      rw [blockFront_eq_cons, List.append_nil] at hfront
      exact ⟨_, by rw [List.take_left, hfront]⟩
    · obtain rfl : j = payload.length + 1 := by omega
      have hfront := decodeBlockAt_cut_after_checksum cfg f0 base type hlen
      have hend : base + 5 + payload.length = base + 4 + (payload.length + 1) := by omega
      rw [blockFront_eq_cons, hend] at hfront
      exact ⟨_, by rw [List.take_length_add_append, List.take_succ_cons, List.take_zero, hfront]⟩

section BlockFails
variable {s : State} {type : Byte} {body : List Byte} {e : Failure} {n : Nat}

/-- A failure of `decodeBlock` ends the turn of a block row. -/
theorem execBlock_fails
    (h : ∃ f, decodeBlockAt s.cfg s.work.frm s.work.seq.off (s.cfg.leaderByte :: s.cfg.syncByte :: type :: body) =
      .raise f e n) : Spec.FailsAtRest (execBlock type body s) s e n := by
  obtain ⟨f, hf⟩ := h
  rw [execBlock, walkBlock_of_raise hf]
  exact s.concludeTurn_raise_failsAtRest _ _ _

/-- The same of a step of a walk at whose cursor lead-in and sync stand. -/
theorem step_walk_fails {image : List Byte} (hwalk : s.request = .walk image)
    (himage : image.drop s.work.seq.off = s.cfg.leaderByte :: s.cfg.syncByte :: body)
    (h : ∃ f, decodeBlockAt s.cfg s.work.frm s.work.seq.off (s.cfg.leaderByte :: s.cfg.syncByte :: body) =
      .raise f e n) : Spec.FailsAtRest (step s) s e n := by
  obtain ⟨f, hf⟩ := h
  rw [step_walk hwalk, himage, walkTurn_of_sync, walkBlock_of_raise hf]
  exact s.concludeTurn_raise_failsAtRest _ _ _

end BlockFails

/-- Settles O32: the failures of the reader, for any type byte. -/
theorem blockFailuresPropagate : Obligations.BlockFailuresPropagate := by
  intro s payload more c hlen off bad
  have hbad {type : Byte} (hc : c ≠ Spec.checksum type payload) :
      ∃ f, decodeBlockAt s.cfg s.work.frm off (s.cfg.leaderByte :: s.cfg.syncByte :: type :: bad) =
        .raise f .checksumError (off + 4 + payload.length) :=
    ⟨_, decodeBlockAt_of_checksum_ne s.cfg s.work.frm off type hlen more hc⟩
  have hcut {k : Nat} (type trailer : Byte) (hk : k ≤ payload.length + 2) :=
    decodeBlockAt_cut s.cfg s.work.frm off type hlen trailer hk
  refine ⟨fun hc => execBlock_fails (hbad hc), fun hc => execBlock_fails (hbad hc),
    fun hc => execBlock_fails (hbad hc), fun k hk trailer => ⟨execBlock_fails (hcut 0x00 trailer hk),
      execBlock_fails (hcut 0x01 trailer hk), execBlock_fails (hcut 0xFF trailer hk)⟩,
    fun image hwalk => ⟨fun himage => ?_, fun type hc himage => ?_, fun type trailer k hk himage => ?_⟩⟩
  · exact step_walk_fails hwalk himage ⟨_, decodeBlockAt_cut_after_sync s.cfg s.work.frm off⟩
  · exact step_walk_fails hwalk himage (hbad hc)
  · exact step_walk_fails hwalk himage (hcut type trailer hk)

/-! ### A turn that meets no block (R103) -/

theorem walkTurn_of_leader_ne {cfg : Config} (u : FrmSeq) {b : Byte} (rest : List Byte) (h : b ≠ cfg.leaderByte) :
    walkTurn cfg u (b :: rest) = .raise u .framingError u.seq.off := if_pos h

theorem walkTurn_leader {cfg : Config} (u : FrmSeq) {rest : List Byte} (h : rest.head? ≠ some cfg.syncByte) :
    walkTurn cfg u (cfg.leaderByte :: rest) = .ok (u.advance 1) none := by
  simp [walkTurn, h, FrmSeq.advance]

/-- Settles O33, by what stands at the cursor. -/
theorem walkBetweenBlocks : Obligations.WalkBetweenBlocks := by
  intro s image hwalk
  have hdrop {b : Byte} (hb : image[s.work.seq.off]? = some b) :
      image.drop s.work.seq.off = b :: image.drop (s.work.seq.off + 1) := by
    obtain ⟨hlt, rfl⟩ := List.getElem?_eq_some_iff.mp hb
    exact List.drop_eq_getElem_cons hlt
  rw [step_walk hwalk]
  refine ⟨fun hend => ?_, fun b hb hne => ?_, fun hb hsync => ?_⟩
  · rw [List.drop_eq_nil_of_le hend]
    exact s.concludeTurn_raise_failsAtRest _ _ _
  · rw [hdrop hb, walkTurn_of_leader_ne _ _ hne]
    exact s.concludeTurn_raise_failsAtRest _ _ _
  · rw [hdrop hb, walkTurn_leader _ (by rwa [List.head?_drop])]
    rfl

end Sys2Proof.Machine

/-! Tape stream SEQ, `assemble` (spec/41_tape_stream.md, R100 to R102): the bytes of the header, the greedy cut of the
program, and the obligations O22 to O25 and O27. -/

namespace Sys2Proof.Machine

/-! ### The Namefile header (R69, R100) -/

theorem upperByte_eq (c : Byte) : upperByte c =
    if 0x61 ≤ c.toNat ∧ c.toNat ≤ 0x7A then BitVec.ofNat 8 (c.toNat - 0x20) else c := by
  have hrange : (0x61 ≤ c ∧ c ≤ 0x7A) ↔ (0x61 ≤ c.toNat ∧ c.toNat ≤ 0x7A) := Iff.rfl
  rw [upperByte]
  split
  case isTrue h =>
    rw [if_pos (hrange.mp h)]
    have hlow := (hrange.mp h).1
    bv_omega
  case isFalse h => rw [if_neg (mt hrange.mpr h)]

theorem normaliseName_eq (cfg : Config) (name : List Byte) : normaliseName cfg name =
    (name.map upperByte).take 8 ++ List.replicate (8 - (name.take 8).length) 0x20 := by
  have hlen : cfg.nameLen = 8 := cfg.formats.2.2.1
  simp [normaliseName, hlen]

theorem length_normaliseName (cfg : Config) (name : List Byte) : (normaliseName cfg name).length = 8 := by
  simp [normaliseName_eq]

theorem normaliseName_getElem? (cfg : Config) (name : List Byte) {k : Nat} (hk : k < 8) :
    (normaliseName cfg name)[k]? = some (match name[k]? with
      | some c => upperByte c
      | none => 0x20) := by
  rw [normaliseName_eq]
  by_cases hin : k < name.length
  · rw [List.getElem?_append_left (by simp; omega), List.getElem?_take_of_lt hk, List.getElem?_map,
      List.getElem?_eq_getElem hin]
    rfl
  · rw [List.getElem?_append_right (by simp; omega), List.getElem?_replicate_of_lt (by simp; omega),
      List.getElem?_eq_none (by omega)]

/-- Settles O27: the two halves of a 16-bit word, as quotient and remainder by 256. -/
theorem addressIsBigEndian : Obligations.AddressIsBigEndian := by
  intro a
  have hlt := a.isLt
  refine ⟨?_, BitVec.eq_of_toNat_eq ?_⟩
  · have hhi : a.extractLsb' 8 8 = BitVec.ofNat 8 (a.toNat / 256) := BitVec.eq_of_toNat_eq (by
      simp [BitVec.extractLsb'_toNat, Nat.shiftRight_eq_div_pow])
    have hlo : a.extractLsb' 0 8 = BitVec.ofNat 8 (a.toNat % 256) := BitVec.eq_of_toNat_eq (by
      simp [BitVec.extractLsb'_toNat])
    rw [addrBytes, hhi, hlo]
  · rw [addrOfBytes_toNat, BitVec.toNat_ofNat, BitVec.toNat_ofNat]
    omega

theorem addrBytes_eq (a : Addr) :
    addrBytes a = [BitVec.ofNat 8 (a.toNat / 256), BitVec.ofNat 8 (a.toNat % 256)] := (addressIsBigEndian a).1

theorem makeNamefile_eq (cfg : Config) (name : List Byte) : makeNamefile cfg name = normaliseName cfg name ++
    [0x00, 0x00, 0x01, BitVec.ofNat 8 (cfg.nfStartAddr.toNat / 256), BitVec.ofNat 8 (cfg.nfStartAddr.toNat % 256),
      BitVec.ofNat 8 (cfg.nfLoadAddr.toNat / 256), BitVec.ofNat 8 (cfg.nfLoadAddr.toNat % 256)] := by
  simp [makeNamefile, addrBytes_eq]

theorem length_makeNamefile (cfg : Config) (name : List Byte) : (makeNamefile cfg name).length = 15 := by
  simp [makeNamefile_eq, length_normaliseName]

/-- Settles O22: the name's eight bytes one by one, then the seven fixed ones. -/
theorem namefileHeaderBytes : Obligations.NamefileHeaderBytes := by
  intro cfg name
  refine ⟨length_makeNamefile cfg name, fun k hk => ?_, ?_⟩
  · rw [makeNamefile_eq, List.getElem?_append_left (by rwa [length_normaliseName]), normaliseName_getElem? cfg name hk]
    cases name[k]? with
    | none => rfl
    | some c => exact congrArg some (upperByte_eq c)
  · rw [makeNamefile_eq, List.drop_left' (length_normaliseName cfg name)]

/-! ### The greedy cut of the program (R101) -/

/-- A cut of `code` into pieces of `m` bytes, the last of 1 to `m`. -/
structure GreedyCut (m : Nat) (code : List Byte) (pieces : List (List Byte)) : Prop where
  flatten : pieces.flatten = code
  bounds : ∀ p ∈ pieces, 1 ≤ p.length ∧ p.length ≤ m
  full : ∀ p ∈ pieces.dropLast, p.length = m

theorem GreedyCut.nil (m : Nat) : GreedyCut m [] [] := ⟨rfl, by simp, by simp⟩

theorem GreedyCut.cons {m : Nat} {code : List Byte} {pieces : List (List Byte)} (hm : 1 ≤ m) (hcode : code ≠ [])
    (h : GreedyCut m (code.drop m) pieces) : GreedyCut m code (code.take m :: pieces) := by
  have hpos := List.length_pos_iff.mpr hcode
  refine ⟨by simp [h.flatten], List.forall_mem_cons.mpr ⟨?_, h.bounds⟩, ?_⟩
  · rw [List.length_take]
    omega
  · match pieces, h with
    | [], _ => simp
    | p :: pieces, h =>
      have hp := (h.bounds p List.mem_cons_self).1
      have hlen := congrArg List.length h.flatten
      rw [List.flatten_cons, List.length_append, List.length_drop] at hlen
      rw [List.dropLast_cons_cons, List.forall_mem_cons]
      exact ⟨by rw [List.length_take]; omega, h.full⟩

/-- The number of pieces of 255 bytes is the program's length divided by 255, rounded up. -/
theorem GreedyCut.length_eq {code : List Byte} {pieces : List (List Byte)} (h : GreedyCut 255 code pieces) :
    pieces.length = (code.length + 254) / 255 := by
  obtain ⟨rfl, hbounds, hfull⟩ := h
  induction pieces with
  | nil => rfl
  | cons p pieces ih =>
    obtain ⟨hp, hbounds⟩ := List.forall_mem_cons.mp hbounds
    match pieces, hfull with
    | [], _ => simp; omega
    | q :: pieces, hfull =>
      rw [List.dropLast_cons_cons, List.forall_mem_cons] at hfull
      have hrest := ih hbounds hfull.2
      rw [List.length_cons, hrest, List.flatten_cons (l := p), List.length_append (as := p), hfull.1]
      omega

/-! ### ASM -/

theorem seqEncodeBlock_of_le {cfg : Config} {payload : List Byte} (u : FrmSeq) (type : Byte)
    (h : payload.length ≤ cfg.maxPayload) : seqEncodeBlock cfg u type payload =
      .ok { u with frm := Spec.framed u.frm type payload } (Spec.block cfg type payload) := by
  rw [seqEncodeBlock, encodeBlock_of_le _ _ h]
  rfl

/-- The chunking loop: a block for every piece of a greedy cut; of FRM it leaves `FRM.OFF` alone. -/
theorem appendData_eq (cfg : Config) (hm : 1 ≤ cfg.maxPayload) (n : Nat) (u : FrmSeq) {rest : List Byte}
    (hn : rest.length ≤ n) : ∃ pieces f, GreedyCut cfg.maxPayload rest pieces ∧ f.off = u.frm.off ∧
      appendData cfg n u rest = .ok { frm := f, seq := { u.seq with pos := u.seq.pos + rest.length } }
        (pieces.flatMap (Spec.block cfg 0x01)) := by
  induction n generalizing u rest with
  | zero =>
    obtain rfl := List.eq_nil_of_length_eq_zero (Nat.le_zero.mp hn)
    exact ⟨[], u.frm, .nil _, rfl, rfl⟩
  | succ n ih =>
    by_cases hrest : rest = []
    · subst hrest
      exact ⟨[], u.frm, .nil _, rfl, rfl⟩
    have hpos := List.length_pos_iff.mpr hrest
    obtain ⟨pieces, f, hcut, hoff, hdata⟩ := ih
      { frm := Spec.framed u.frm 0x01 (rest.take cfg.maxPayload)
        seq := { u.seq with pos := u.seq.pos + (rest.take cfg.maxPayload).length } }
      (rest := rest.drop cfg.maxPayload) (by rw [List.length_drop]; omega)
    refine ⟨rest.take cfg.maxPayload :: pieces, f, hcut.cons hm hrest, hoff, ?_⟩
    have hlen : u.seq.pos + (rest.take cfg.maxPayload).length + (rest.drop cfg.maxPayload).length =
        u.seq.pos + rest.length := by rw [List.length_take, List.length_drop]; omega
    simp only [hlen] at hdata
    rw [appendData, if_neg hrest, seqEncodeBlock_of_le _ _ (List.length_take_le _ _), Res.bind_ok, hdata, Res.bind_ok,
      List.flatMap_cons]

theorem exec_asm (programName codeBytes : List Byte) (s : State) :
    exec (.asm programName codeBytes) s =
      s.conclude s.work.putFrmSeq .bytes (assemble s.cfg s.work.frmSeq programName codeBytes) := rfl

/-- Settles O23: the header fits, and the chunking loop cuts greedily. -/
theorem asmOutcome : Obligations.AsmOutcome := by
  intro s programName codeBytes hmax
  have hheader : (makeNamefile s.cfg programName).length ≤ s.cfg.maxPayload := by rwa [length_makeNamefile]
  obtain ⟨pieces, f, hcut, hoff, hdata⟩ := appendData_eq s.cfg (by omega) codeBytes.length
    { frm := Spec.framed s.work.frm 0x00 (makeNamefile s.cfg programName), seq := { s.work.seq with pos := 0 } }
    le_rfl
  have hasm : assemble s.cfg s.work.frmSeq programName codeBytes =
      .ok { frm := Spec.framed f 0xFF [], seq := { s.work.seq with pos := 0 + codeBytes.length } }
        (Spec.leader s.cfg ++ Spec.block s.cfg 0x00 (makeNamefile s.cfg programName) ++ Spec.leader s.cfg ++
          pieces.flatMap (Spec.block s.cfg 0x01) ++ Spec.block s.cfg 0xFF []) := by
    rw [assemble, seqEncodeBlock_of_le _ _ hheader, Res.bind_ok]
    simp only [Work.frmSeq]
    rw [hdata, Res.bind_ok, seqEncodeBlock_of_le _ _ (Nat.zero_le _), Res.bind_ok]
    rfl
  have hframed : Spec.framed f 0xFF [] = Spec.framed s.work.frm 0xFF [] := by
    simp only [Spec.framed, hoff]
  refine ⟨pieces, hcut.flatten, hcut.bounds, hcut.full, ?_⟩
  rw [exec_asm, hasm, hframed, Nat.zero_add]
  exact s.conclude_ok_delivers _ _ _ _

theorem length_flatMap_block (cfg : Config) (type : Byte) (pieces : List (List Byte)) :
    (pieces.flatMap (Spec.block cfg type)).length = pieces.flatten.length + 6 * pieces.length := by
  induction pieces with
  | nil => rfl
  | cons p pieces ih =>
    rw [List.flatMap_cons, List.length_append, length_block, ih, List.flatten_cons, List.length_append,
      List.length_cons]
    omega

/-- Settles O24: two leaders of 128, 21 and 6 bytes of header and end, and 6 bytes around every piece of the cut. -/
theorem asmImageLength : Obligations.AsmImageLength := by
  intro a b s t programName codeBytes image hcfg hexec himage
  have hmax : s.cfg.maxPayload = 255 := by rw [hcfg]; rfl
  obtain ⟨pieces, hflatten, hbounds, hfull, t', ht', -, hresult, -⟩ :=
    asmOutcome s programName codeBytes (by omega)
  rw [hmax] at hbounds hfull
  cases hexec.symm.trans ht'
  cases himage.symm.trans hresult
  have hcount := GreedyCut.length_eq ⟨hflatten, hbounds, hfull⟩
  have hleader : (Spec.leader s.cfg).length = 128 := by rw [hcfg]; exact List.length_replicate
  simp only [List.length_append, length_flatMap_block, length_block, hleader, length_makeNamefile, hflatten, hcount,
    List.length_nil]
  omega

/-- Settles O25: the first block is the header's, and its failure propagates. -/
theorem asmFailsWhereHeaderDoesNotFit : Obligations.AsmFailsWhereHeaderDoesNotFit := by
  intro s programName codeBytes hmax
  have hheader : s.cfg.maxPayload < (makeNamefile s.cfg programName).length := by rwa [length_makeNamefile]
  rw [exec_asm, assemble, seqEncodeBlock, encodeBlock_of_gt _ _ hheader, Res.lift_raise, Res.bind_raise,
    length_makeNamefile]
  exact s.conclude_raise_fails _ _ _ _ _

end Sys2Proof.Machine

/-! Tape stream SEQ, `disassemble` (spec/41_tape_stream.md, R103 to R106): its loop turn by turn, leaders and blocks of
an image of the canonical shape, and the obligations O34 to O37. -/

namespace Sys2Proof.Machine

/-! ### The loop, by what its next turn does (R104) -/

section WalkLoop
variable {cfg : Config} {image : List Byte} {u u' : FrmSeq} (n : Nat)

theorem walkLoop_of_none (h : walkTurn cfg u (image.drop u.seq.off) = .ok u' none) :
    walkLoop cfg image (n + 1) u = walkLoop cfg image n u' := by
  rw [walkLoop, h]

theorem walkLoop_of_some {r : NamefileHeader × List Byte}
    (h : walkTurn cfg u (image.drop u.seq.off) = .ok u' (some r)) : walkLoop cfg image (n + 1) u = .ok u' r := by
  rw [walkLoop, h]

theorem walkLoop_of_raise {e : Failure} {i : Nat} (h : walkTurn cfg u (image.drop u.seq.off) = .raise u' e i) :
    walkLoop cfg image (n + 1) u = .raise u' e i := by
  rw [walkLoop, h]

theorem walkLoop_of_refuse {why : Refusal} (h : walkTurn cfg u (image.drop u.seq.off) = .refuse why) :
    walkLoop cfg image (n + 1) u = .refuse why := by
  rw [walkLoop, h]

end WalkLoop

theorem walkTurn_nil (cfg : Config) (u : FrmSeq) : walkTurn cfg u [] = .raise u .missingEndOfFileError u.seq.off := rfl

/-! ### DISASM as a run of steps -/

/-- The core in the middle of a walk, with the registers `u` of FRM and SEQ. -/
def State.walkingAt (s : State) (image : List Byte) (u : FrmSeq) : State :=
  { s with request := .walk image, work := s.work.putFrmSeq u }

theorem step_walkingAt (s : State) (image : List Byte) (u : FrmSeq) :
    step (s.walkingAt image u) = (s.walkingAt image u).concludeTurn (walkTurn s.cfg u (image.drop u.seq.off)) :=
  step_walk (s := s.walkingAt image u) rfl

theorem run_succ_of_next {s t : State} (h : step s = .next t) (k : Nat) :
    Host.Core.run Sys2Proof.core (k + 1) s = Host.Core.run Sys2Proof.core k t := by
  have hcore : Sys2Proof.core.step s = .next t := h
  simp only [Host.Core.run, hcore]

theorem run_one_of_refused {s : State} {why : Refusal} (h : step s = .refused why) :
    Host.Core.run Sys2Proof.core 1 s = .refused why := by
  have hcore : Sys2Proof.core.step s = .refused why := h
  simp only [Host.Core.run, hcore]

/-- A run of the core through the walk ends as the loop does, where the loop's bound exceeds the bytes left. -/
theorem run_walkingAt (s : State) (image : List Byte) (n : Nat) (u : FrmSeq) (hoff : u.seq.off ≤ image.length)
    (hn : image.length < u.seq.off + n) :
    ∃ k ≤ n, Host.Core.run Sys2Proof.core k (s.walkingAt image u) =
      s.conclude s.work.putFrmSeq (fun r => .program r.1 r.2) (walkLoop s.cfg image n u) := by
  induction n generalizing u with
  | zero => omega
  | succ n ih =>
    have hstep := step_walkingAt s image u
    cases hturn : walkTurn s.cfg u (image.drop u.seq.off) with
    | ok u' r =>
      rw [hturn] at hstep
      match r with
      | none =>
        obtain ⟨hlt, hle, -⟩ := walkTurn_eq_ok hturn
        rw [List.length_drop] at hle
        obtain ⟨k, hk, hrun⟩ := ih u' (by omega) (by omega)
        exact ⟨k + 1, Nat.succ_le_succ hk, by rw [run_succ_of_next hstep, walkLoop_of_none n hturn, ← hrun]; rfl⟩
      | some r => exact ⟨1, by omega, by rw [run_succ_of_next hstep, walkLoop_of_some n hturn]; rfl⟩
    | raise u' e i =>
      rw [hturn] at hstep
      exact ⟨1, by omega, by rw [run_succ_of_next hstep, walkLoop_of_raise n hturn]; rfl⟩
    | refuse why =>
      rw [hturn] at hstep
      exact ⟨1, by omega, by rw [run_one_of_refused hstep, walkLoop_of_refuse n hturn]; rfl⟩

/-- Settles O34: the cursor begins at 0, so `len(T) + 1` turns are more than the bytes left. -/
theorem disasmIsTheWalk : Obligations.DisasmIsTheWalk := fun s image =>
  run_walkingAt s image (image.length + 1) s.work.frmSeq.startWalk (Nat.zero_le _) (by simp)

/-! ### Leaders -/

theorem drop_of_drop_eq_append {α : Type} {l X Y : List α} {i j : Nat} (h : l.drop i = X ++ Y) (hj : j = i + X.length) :
    l.drop j = Y := by
  rw [hj, ← List.drop_drop, h, List.drop_left]

@[simp] theorem FrmSeq.advance_off (u : FrmSeq) (n : Nat) : (u.advance n).seq.off = u.seq.off + n := rfl

/-- Leader bytes are passed over one by one (R103). -/
theorem walkLoop_leaders {cfg : Config} (hls : cfg.leaderByte ≠ cfg.syncByte) {image rest : List Byte} (k n : Nat)
    {u : FrmSeq} (hdrop : image.drop u.seq.off = List.replicate n cfg.leaderByte ++ rest)
    (hrest : rest.head? ≠ some cfg.syncByte) :
    walkLoop cfg image (k + n) u = walkLoop cfg image k (u.advance n) := by
  induction n generalizing u with
  | zero => rfl
  | succ n ih =>
    rw [List.replicate_succ, List.cons_append] at hdrop
    have hnext : (List.replicate n cfg.leaderByte ++ rest).head? ≠ some cfg.syncByte := by
      cases n with
      | zero => exact hrest
      | succ n => simpa [List.replicate_succ] using hls
    have hturn : walkTurn cfg u (image.drop u.seq.off) = .ok (u.advance 1) none := by
      rw [hdrop, walkTurn_leader u hnext]
    rw [← Nat.add_assoc, walkLoop_of_none _ hturn, ih (drop_of_drop_eq_append (X := [cfg.leaderByte]) hdrop rfl)]
    simp only [FrmSeq.advance, Nat.add_assoc, Nat.add_comm 1]

/-- Settles O35: the leaders are passed over, then the image has ended. -/
theorem disasmOfLeaderOnly : Obligations.DisasmOfLeaderOnly := by
  intro s n hls
  have hloop := walkLoop_leaders hls (image := List.replicate n s.cfg.leaderByte) 1 n
    (u := s.work.frmSeq.startWalk) (List.append_nil _).symm (by simp)
  have hend : walkTurn s.cfg (s.work.frmSeq.startWalk.advance n) ((List.replicate n s.cfg.leaderByte).drop
      (s.work.frmSeq.startWalk.advance n).seq.off) =
        .raise (s.work.frmSeq.startWalk.advance n) .missingEndOfFileError n := by
    rw [List.drop_eq_nil_of_le (by simp), walkTurn_nil]
    simp
  rw [exec_disasm, disassemble, List.length_replicate, Nat.add_comm n, hloop, walkLoop_of_raise 0 hend]
  exact s.conclude_raise_fails _ _ _ _ _

/-! ### The blocks of an image -/

theorem block_append (cfg : Config) (type : Byte) (payload more : List Byte) :
    Spec.block cfg type payload ++ more =
      blockFront cfg type payload (Spec.checksum type payload :: cfg.leaderByte :: more) := blockWithTrailer_append ..

theorem head?_block_append (cfg : Config) (type : Byte) (payload more : List Byte) :
    (Spec.block cfg type payload ++ more).head? = some cfg.leaderByte := rfl

theorem walkTurn_block (cfg : Config) (u : FrmSeq) (type : Byte) {payload : List Byte} (hlen : payload.length ≤ 255)
    (more : List Byte) :
    walkTurn cfg u (Spec.block cfg type payload ++ more) =
      interpretBlock cfg ({ u with frm := Spec.parsed u.frm type payload u.seq.off }.advance (6 + payload.length))
        { blockType := type, payload := payload, checksum := Spec.checksum type payload } := by
  rw [block_append, blockFront_eq_cons, walkTurn_of_sync, ← blockFront_eq_cons, walkBlock_whole type hlen]

section WalkLoopBlock
variable {cfg : Config} {image rest : List Byte} {u : FrmSeq} (k : Nat)

theorem walkLoop_namefile {h : Vector Byte 15} (hv : u.seq.hdrValid = false)
    (hdrop : image.drop u.seq.off = Spec.block cfg 0x00 h.toList ++ rest) :
    ∃ f, walkLoop cfg image (k + 1) u =
      walkLoop cfg image k { frm := f, seq := { u.seq with off := u.seq.off + 21, hdrValid := true, hdr := h } } := by
  have hturn := (walkTurn_block cfg u 0x00 (payload := h.toList) (by simp) rest).trans
    (interpretBlock_namefile cfg _ h hv)
  rw [← hdrop] at hturn
  exact ⟨_, by rw [walkLoop_of_none k hturn, Vector.length_toList]; rfl⟩

theorem walkLoop_data {payload : List Byte} (hv : u.seq.hdrValid = true) (hpos : 1 ≤ payload.length)
    (hlen : payload.length ≤ 255) (hdrop : image.drop u.seq.off = Spec.block cfg 0x01 payload ++ rest) :
    ∃ f, walkLoop cfg image (k + 1) u = walkLoop cfg image k { frm := f, seq := { u.seq with
      off := u.seq.off + (6 + payload.length), code := u.seq.code ++ payload } } := by
  have hturn := (walkTurn_block cfg u 0x01 hlen rest).trans (interpretBlock_data cfg _ _ hv hpos)
  rw [← hdrop] at hturn
  exact ⟨_, walkLoop_of_none k hturn⟩

theorem walkLoop_eof (hv : u.seq.hdrValid = true)
    (hdrop : image.drop u.seq.off = Spec.block cfg 0xFF [] ++ rest) :
    walkLoop cfg image (k + 1) u = .ok
      { frm := Spec.parsed u.frm 0xFF [] u.seq.off, seq := { u.seq with off := u.seq.off + 6 } }
      (parseNamefile u.seq.hdr, u.seq.code) := by
  have hturn := (walkTurn_block cfg u 0xFF (Nat.zero_le _) rest).trans (interpretBlock_eof cfg _ hv)
  rw [← hdrop] at hturn
  exact walkLoop_of_some k hturn

/-- The Data blocks of a program are collected one by one (R104). -/
theorem walkLoop_pieces {pieces : List (List Byte)} (hp : ∀ p ∈ pieces, 1 ≤ p.length ∧ p.length ≤ 255)
    (hv : u.seq.hdrValid = true) (hdrop : image.drop u.seq.off = pieces.flatMap (Spec.block cfg 0x01) ++ rest) :
    ∃ f, walkLoop cfg image (k + pieces.length) u = walkLoop cfg image k { frm := f, seq := { u.seq with
      off := u.seq.off + (pieces.flatMap (Spec.block cfg 0x01)).length, code := u.seq.code ++ pieces.flatten } } := by
  induction pieces generalizing u with
  | nil => exact ⟨u.frm, by simp⟩
  | cons p pieces ih =>
    obtain ⟨⟨hpos, hlen⟩, hp⟩ := List.forall_mem_cons.mp hp
    rw [List.flatMap_cons, List.append_assoc] at hdrop
    obtain ⟨f₁, hfirst⟩ := walkLoop_data (k + pieces.length) hv hpos hlen hdrop
    obtain ⟨f, hloop⟩ := ih (u := { frm := f₁, seq := { u.seq with
      off := u.seq.off + (6 + p.length), code := u.seq.code ++ p } }) hp hv
      (drop_of_drop_eq_append hdrop (by rw [length_block]))
    refine ⟨f, ?_⟩
    rw [List.length_cons, ← Nat.add_assoc, hfirst, hloop]
    simp only [List.flatMap_cons, List.length_append, length_block, List.flatten_cons, List.append_assoc, Nat.add_assoc]

end WalkLoopBlock

theorem length_image (cfg : Config) (n : Nat) (h : Vector Byte 15) (m : Nat) (pieces : List (List Byte)) :
    (Spec.image cfg n h m pieces).length = n + 21 + m + (pieces.flatMap (Spec.block cfg 0x01)).length + 6 := by
  simp [Spec.image, length_block, Nat.add_assoc]

/-- `disassemble` of an image of the canonical shape (R104): a leader, the header, a leader, the pieces, the end. -/
theorem disassemble_image (cfg : Config) (u : FrmSeq) (n m : Nat) (h : Vector Byte 15) {pieces : List (List Byte)}
    (post : List Byte) (hls : cfg.leaderByte ≠ cfg.syncByte) (hp : ∀ p ∈ pieces, 1 ≤ p.length ∧ p.length ≤ 255) :
    disassemble cfg u (Spec.image cfg n h m pieces ++ post) =
      .ok { frm := Spec.parsed u.frm 0xFF [] ((Spec.image cfg n h m pieces).length - 6)
            seq := { u.seq with off := (Spec.image cfg n h m pieces).length, hdrValid := true, hdr := h,
                                code := pieces.flatten } }
        (parseNamefile h, pieces.flatten) := by
  have hlen := length_image cfg n h m pieces
  have hcount := length_flatMap_block cfg 0x01 pieces
  have himage : (Spec.image cfg n h m pieces ++ post).drop u.startWalk.seq.off =
      List.replicate n cfg.leaderByte ++ (Spec.block cfg 0x00 h.toList ++ (List.replicate m cfg.leaderByte ++
        (pieces.flatMap (Spec.block cfg 0x01) ++ (Spec.block cfg 0xFF [] ++ post)))) := by
    simp [Spec.image, List.append_assoc]
  have hhead (type : Byte) (payload more : List Byte) :
      (Spec.block cfg type payload ++ more).head? ≠ some cfg.syncByte :=
    fun hsync => hls (Option.some.inj ((head?_block_append cfg type payload more).symm.trans hsync))
  have hpieces : (pieces.flatMap (Spec.block cfg 0x01) ++ (Spec.block cfg 0xFF [] ++ post)).head? ≠
      some cfg.syncByte := by
    cases pieces with
    | nil => exact hhead 0xFF [] post
    | cons p pieces =>
      rw [List.flatMap_cons, List.append_assoc]
      exact hhead _ _ _
  obtain ⟨k, hfuel⟩ : ∃ k, (Spec.image cfg n h m pieces ++ post).length + 1 = k + 1 + pieces.length + m + 1 + n := by
    refine ⟨(Spec.image cfg n h m pieces ++ post).length - (pieces.length + m + 1 + n), ?_⟩
    rw [List.length_append]
    omega
  have hloop₁ := walkLoop_leaders hls (k + 1 + pieces.length + m + 1) n himage (hhead _ _ _)
  have hheader := drop_of_drop_eq_append himage (j := (u.startWalk.advance n).seq.off) (by simp)
  obtain ⟨f₁, hloop₂⟩ := walkLoop_namefile (k + 1 + pieces.length + m) rfl hheader
  have hleader := drop_of_drop_eq_append hheader (j := n + 21) (by simp [length_block])
  have hloop₃ := walkLoop_leaders hls (k + 1 + pieces.length) m
    (u := { frm := f₁, seq := { u.seq with off := n + 21, hdrValid := true, hdr := h, code := [] } }) hleader hpieces
  have hdata := drop_of_drop_eq_append hleader (j := n + 21 + m) (by simp)
  obtain ⟨f₂, hloop₄⟩ := walkLoop_pieces (k + 1)
    (u := { frm := f₁, seq := { u.seq with off := n + 21 + m, hdrValid := true, hdr := h, code := [] } }) hp rfl hdata
  have hloop₅ := walkLoop_eof k
    (u := { frm := f₂, seq := { u.seq with
      off := n + 21 + m + (pieces.flatMap (Spec.block cfg 0x01)).length
      hdrValid := true, hdr := h, code := pieces.flatten } }) rfl (drop_of_drop_eq_append hdata rfl)
  rw [disassemble, hfuel, hloop₁, hloop₂]
  simp only [FrmSeq.advance, FrmSeq.startWalk, Nat.zero_add] at hloop₃ ⊢
  rw [hloop₃, hloop₄]
  simp only [List.nil_append]
  rw [hloop₅, hlen, Nat.add_sub_cancel]
  rfl

/-- Settles O36: `disassemble_image`, delivered. -/
theorem disasmOfImage : Obligations.DisasmOfImage := by
  intro s n m h pieces post hls hp
  rw [exec_disasm, disassemble_image s.cfg _ n m h post hls hp]
  exact s.conclude_ok_delivers _ _ _ _

/-! ### The stream round trip (R106) -/

/-- The header of an assembled image, as the walk holds it. -/
def namefileVector (cfg : Config) (name : List Byte) : Vector Byte 15 :=
  ⟨(makeNamefile cfg name).toArray, length_makeNamefile cfg name⟩

theorem toList_namefileVector (cfg : Config) (name : List Byte) :
    (namefileVector cfg name).toList = makeNamefile cfg name := rfl

theorem addrOfBytes_halves (a : Addr) :
    addrOfBytes (BitVec.ofNat 8 (a.toNat / 256)) (BitVec.ofNat 8 (a.toNat % 256)) = a := (addressIsBigEndian a).2

theorem parseNamefile_namefileVector (a b : Addr) (name : List Byte) :
    parseNamefile (namefileVector (Config.defaultWith a b) name) = Spec.assembledHeader a b name := by
  have hname := length_normaliseName (Config.defaultWith a b) name
  have hget (k : Nat) (hk : k < 15) : (namefileVector (Config.defaultWith a b) name)[k] =
      (makeNamefile (Config.defaultWith a b) name)[k]'(by rwa [length_makeNamefile]) := rfl
  simp only [parseNamefile, Spec.assembledHeader, hget, toList_namefileVector, makeNamefile_eq]
  simp [List.getElem_append_right, hname, List.take_left' hname, addrOfBytes_halves]

theorem defaultWith_leader_ne_sync (a b : Addr) :
    (Config.defaultWith a b).leaderByte ≠ (Config.defaultWith a b).syncByte := by simp

/-- What `assemble` delivers at the default configuration is an image of the canonical shape. -/
theorem exec_asm_default {a b : Addr} {s : State} (hcfg : s.cfg = Config.defaultWith a b) (name code : List Byte) :
    ∃ pieces t, pieces.flatten = code ∧ (∀ p ∈ pieces, 1 ≤ p.length ∧ p.length ≤ 255) ∧
      exec (.asm name code) s = .next t ∧ t.err = 0 ∧ t.result = .bytes
        (Spec.image (Config.defaultWith a b) 128 (namefileVector (Config.defaultWith a b) name) 128 pieces) := by
  obtain ⟨pieces, hflatten, hbounds, -, t, ht, herr, hresult, -⟩ :=
    asmOutcome s name code (by simp [hcfg])
  refine ⟨pieces, t, hflatten, fun p hp => ?_, ht, herr, ?_⟩
  · obtain ⟨hpos, hle⟩ := hbounds p hp
    exact ⟨hpos, hle.trans (Config.maxPayload_le s.cfg)⟩
  · rw [hresult, hcfg]
    rfl

/-- `DISASM` of an image of the canonical shape at the default configuration. -/
theorem exec_disasm_image {a b : Addr} {s : State} (hcfg : s.cfg = Config.defaultWith a b) (n m : Nat)
    (h : Vector Byte 15) {pieces : List (List Byte)} (hp : ∀ p ∈ pieces, 1 ≤ p.length ∧ p.length ≤ 255) :
    ∃ u, exec (.disasm (Spec.image (Config.defaultWith a b) n h m pieces)) s = .next u ∧ u.err = 0 ∧
      u.result = .program (parseNamefile h) pieces.flatten ∧
      u.work.seq.off = (Spec.image (Config.defaultWith a b) n h m pieces).length := by
  obtain ⟨u, hu, herr, hresult, hwork, -⟩ :=
    disasmOfImage s n m h pieces [] (hcfg ▸ defaultWith_leader_ne_sync a b) hp
  rw [List.append_nil, hcfg] at hu
  exact ⟨u, hu, herr, hresult, by rw [hwork, hcfg]⟩

/-- Settles O37: the pieces of the greedy cut joined are the program, and the header's fields those it was made of. -/
theorem disasmOfAsm : Obligations.DisasmOfAsm := by
  intro a b s s' name code hcfg hcfg'
  obtain ⟨pieces, t, hflatten, hbounds, ht, herr, hresult⟩ := exec_asm_default hcfg name code
  obtain ⟨u, hu, huerr, huresult, hoff⟩ :=
    exec_disasm_image hcfg' 128 128 (namefileVector (Config.defaultWith a b) name) hbounds
  rw [parseNamefile_namefileVector, hflatten] at huresult
  exact ⟨t, _, u, ht, herr, hresult, hu, huerr, huresult, hoff⟩

end Sys2Proof.Machine

/-! The failures and refusals of each operation (spec/60_exceptions.md, R165 to R182): what every piece of pseudocode
can raise or refuse, and the obligation O11. -/

namespace Sys2Proof.Machine

/-! ### Pieces of pseudocode that raise and refuse no more than is listed -/

/-- The piece ends with a value, in one of the failures listed, or, where that is allowed, in a refusal. -/
def Res.Within {ρ α : Type} (fails : List Failure) (mayRefuse : Bool) : Res ρ α → Prop
  | .ok _ _ => True
  | .raise _ e _ => e ∈ fails
  | .refuse _ => mayRefuse = true

section Within
variable {ρ σ α β : Type} {fails : List Failure} {mayRefuse : Bool} {x : Res ρ α}

theorem Res.within_ok (r : ρ) (a : α) : (Res.ok r a).Within fails mayRefuse := trivial

theorem Res.Within.bind {k : ρ → α → Res ρ β} (hx : x.Within fails mayRefuse)
    (hk : ∀ r a, (k r a).Within fails mayRefuse) : (x.bind k).Within fails mayRefuse := by
  cases x with
  | ok r a => exact hk r a
  | raise r e n => exact hx
  | refuse why => exact hx

theorem Res.Within.lift {f : ρ → σ} {g : α → β} (hx : x.Within fails mayRefuse) :
    (x.lift f g).Within fails mayRefuse := by
  cases x <;> exact hx

end Within

/-! ### FRM -/

section Reader
variable {fails : List Failure} {mayRefuse : Bool}

theorem memRead_within {ρ : Type} (htrunc : .truncatedInputError ∈ fails) (r : ρ) (rest : List Byte) (base k : Nat) :
    (memRead r rest base k).Within fails mayRefuse := by
  rw [memRead]
  cases rest[k]? with
  | some b => trivial
  | none => exact htrunc

theorem readPayload_within (htrunc : .truncatedInputError ∈ fails) (rest : List Byte) (base n : Nat) (f : FrmRegs)
    (k : Nat) : (readPayload f rest base k n).Within fails mayRefuse := by
  induction n generalizing f k with
  | zero => trivial
  | succ n ih =>
    exact (memRead_within htrunc f rest base k).bind fun f p => (ih _ _).bind fun f ps => trivial

theorem decodeBlockAt_within (hframe : .framingError ∈ fails) (hsum : .checksumError ∈ fails)
    (htrunc : .truncatedInputError ∈ fails) (cfg : Config) (f0 : FrmRegs) (base : Nat) (rest : List Byte) :
    (decodeBlockAt cfg f0 base rest).Within fails mayRefuse := by
  have hread (f : FrmRegs) (k : Nat) : (memRead f rest base k).Within fails mayRefuse :=
    memRead_within htrunc f rest base k
  refine (hread _ 0).bind fun f b0 => ?_
  split
  · exact hframe
  refine (hread _ 1).bind fun f b1 => ?_
  split
  · exact hframe
  refine (hread _ 2).bind fun f type => (hread _ 3).bind fun f len => ?_
  refine (readPayload_within htrunc rest base len.toNat _ 4).bind fun f payload => (hread _ _).bind fun f c => ?_
  split
  · exact hsum
  · exact (hread _ _).bind fun f _ => trivial

end Reader

theorem encodeBlock_within (cfg : Config) (f : FrmRegs) (type : Byte) (payload : List Byte) :
    (encodeBlock cfg f type payload).Within [.payloadTooLargeError] false := by
  rw [encodeBlock]
  split
  · exact List.mem_singleton_self _
  · trivial

/-! ### SEQ -/

section Walk
variable {fails : List Failure}

theorem interpretBlock_within (cfg : Config) (u : FrmSeq) (blk : TapeBlock) :
    (interpretBlock cfg u blk).Within fails true := by
  unfold interpretBlock
  split_ifs <;> trivial

theorem disassemble_within (hframe : .framingError ∈ fails) (hsum : .checksumError ∈ fails)
    (htrunc : .truncatedInputError ∈ fails) (hend : .missingEndOfFileError ∈ fails) (cfg : Config) (u : FrmSeq)
    (image : List Byte) : (disassemble cfg u image).Within fails true := by
  have hturn (u : FrmSeq) (rest : List Byte) : (walkTurn cfg u rest).Within fails true := by
    unfold walkTurn
    split
    · exact hend
    split
    · exact hframe
    split
    · exact (decodeBlockAt_within hframe hsum htrunc _ _ _ _).lift.bind fun u r => interpretBlock_within _ _ _
    · trivial
  have hloop (n : Nat) (u : FrmSeq) : (walkLoop cfg image n u).Within fails true := by
    induction n generalizing u with
    | zero => exact hend
    | succ n ih =>
      have hnext := hturn u (image.drop u.seq.off)
      rw [walkLoop]
      split
      · exact ih _
      · trivial
      · rename_i h
        rwa [h] at hnext
      · trivial
  exact hloop _ _

end Walk

/-! ### DEM -/

section Dem
variable {fails : List Failure} {mayRefuse : Bool}

theorem scanHigh_within (htrunc : .truncatedInputError ∈ fails) (cfg : Config) (S : List Sample) (d : DemRegs) :
    (scanHigh cfg S d).Within fails mayRefuse := by
  rw [scanHigh]
  split
  · split
    · exact htrunc
    · trivial
  · trivial

theorem detectRuns_within (htrunc : .truncatedInputError ∈ fails) (cfg : Config) (S : List Sample) (n : Nat)
    (d : DemRegs) : (detectRuns cfg S n d).Within fails mayRefuse := by
  induction n generalizing d with
  | zero => trivial
  | succ n ih =>
    rw [detectRuns]
    split
    · exact ((scanHigh_within htrunc _ _ _).bind fun d _ => Res.within_ok _ _).bind fun d _ => ih d
    · trivial

theorem demodulate_within (htrunc : .truncatedInputError ∈ fails) (hnone : .noSignalError ∈ fails) (cfg : Config)
    (d : DemRegs) (S : List Sample) : (demodulate cfg d S).Within fails mayRefuse := by
  have hclassify (d : DemRegs) : (classify d).Within fails mayRefuse := by
    rw [classify]
    split
    · exact hnone
    · trivial
  exact (detectRuns_within htrunc cfg S _ _).bind fun d _ => (hclassify d).bind fun d _ => by
    rw [assembleBytes_eq]
    trivial

end Dem

/-! ### The table -/

/-- The outcome of an operation lies in a row of R182's table. -/
def RowRespected (fails : List Failure) (mayRefuse : Bool) (o : Host.Outcome State Fault Refusal) : Prop :=
  (∀ t, o = .next t → t.err = 0 ∨ ∃ e ∈ fails, t.err = e.code) ∧ (∀ why, o = .refused why → mayRefuse = true) ∧
    ∀ f, o ≠ .fault f

section RowRespected
variable {fails : List Failure} {mayRefuse : Bool}

theorem Res.Within.conclude {ρ α : Type} {x : Res ρ α} (hx : x.Within fails mayRefuse) (s : State) (put : ρ → Work)
    (out : α → Result) : RowRespected fails mayRefuse (s.conclude put out x) := by
  refine ⟨fun t h => ?_, fun why h => ?_, s.conclude_ne_fault put out x⟩
  · rcases State.conclude_eq_next h with ⟨r, a, -, rfl⟩ | ⟨r, e, n, rfl, rfl⟩
    · exact .inl (s.deliver_err _ _)
    · exact .inr ⟨e, hx, s.takeFailure_err _ _ _⟩
  · rw [State.conclude_eq_refused h] at hx
    exact hx

theorem rowRespected_of_ok {t : State} (h : t.err = 0) : RowRespected fails mayRefuse (.next t) :=
  ⟨fun _ ht => by cases ht; exact .inl h, fun _ ht => (by cases ht), fun _ ht => by cases ht⟩

theorem rowRespected_of_refused {why : Refusal} (h : mayRefuse = true) : RowRespected fails mayRefuse (.refused why) :=
  ⟨fun _ ht => (by cases ht), fun _ _ => h, fun _ ht => by cases ht⟩

end RowRespected

/-- Settles O11: each operation by what its piece of pseudocode can raise and refuse; `ASM` raises nothing because the
header and the pieces fit a block at the default configuration. -/
theorem failureTableIsRespected : Obligations.FailureTableIsRespected := by
  intro a b i s hcfg hi
  change RowRespected (Spec.mayFail i) (Spec.mayRefuse i) (exec i s)
  cases i with
  | encblk type payload => exact (encodeBlock_within _ _ _ _).conclude s _ _
  | decblk bytes offset =>
    exact (decodeBlockAt_within (by simp [Spec.mayFail]) (by simp [Spec.mayFail]) (by simp [Spec.mayFail])
      _ _ _ _).conclude s _ _
  | asm name code =>
    obtain ⟨-, t, -, -, ht, herr, -⟩ := exec_asm_default hcfg name code
    rw [ht]
    exact rowRespected_of_ok herr
  | disasm image =>
    exact (disassemble_within (by simp [Spec.mayFail]) (by simp [Spec.mayFail]) (by simp [Spec.mayFail])
      (by simp [Spec.mayFail]) _ _ _).conclude s _ _
  | cyclen bit => exact rowRespected_of_ok (s.deliver_err _ _)
  | bldcyc n => exact rowRespected_of_ok (s.deliver_err _ _)
  | encbyte byte => exact rowRespected_of_ok (s.deliver_err _ _)
  | encstrm bytes => exact rowRespected_of_ok (s.deliver_err _ _)
  | silence q =>
    by_cases hq : q < 0
    · rw [exec_silence_of_neg s hq]
      exact rowRespected_of_refused (decide_eq_true hq)
    · rw [exec_silence_of_nonneg s (not_lt.mp hq)]
      exact rowRespected_of_ok (s.deliver_err _ _)
  | modul p q => exact rowRespected_of_ok (s.deliver_err _ _)
  | demod S => exact (demodulate_within (by simp [Spec.mayFail]) (by simp [Spec.mayFail]) _ _ _).conclude s _ _
  | encaud image => exact rowRespected_of_ok (s.deliver_err _ _)
  | decaud S =>
    have hdem := demodulate_within (fails := Spec.mayFail (.decaud S)) (mayRefuse := true) (by simp [Spec.mayFail])
      (by simp [Spec.mayFail]) s.cfg s.work.dem S
    exact (hdem.lift.bind fun w r => (disassemble_within (by simp [Spec.mayFail]) (by simp [Spec.mayFail])
      (by simp [Spec.mayFail]) (by simp [Spec.mayFail]) _ _ _).lift).conclude s _ _
  | namefile body => cases hi
  | data body => cases hi
  | eof body => cases hi

end Sys2Proof.Machine

/-! No state survives from one operation to the next (spec/10_state.md R21, spec/60_exceptions.md R171): what a piece of
pseudocode ends with, as a relation between two runs of it from different registers, and the obligation O9. -/

namespace Sys2Proof.Machine

/-! ### Two runs that end alike -/

/-- Both runs end with the same value and registers related by `R`, in the same failure with the same `info`, or in the
same refusal. -/
def Res.Alike {ρ α : Type} (R : ρ → ρ → Prop) : Res ρ α → Res ρ α → Prop
  | .ok r a, .ok r' a' => R r r' ∧ a = a'
  | .raise _ e n, .raise _ e' n' => e = e' ∧ n = n'
  | .refuse why, .refuse why' => why = why'
  | _, _ => False

section Alike
variable {ρ σ α β : Type} {R : ρ → ρ → Prop} {x x' : Res ρ α}

theorem Res.alike_ok {r r' : ρ} (h : R r r') (a : α) : (Res.ok r a).Alike R (.ok r' a) := ⟨h, rfl⟩

theorem Res.alike_raise (r r' : ρ) (e : Failure) (n : Nat) : (Res.raise r e n : Res ρ α).Alike R (.raise r' e n) :=
  ⟨rfl, rfl⟩

theorem Res.alike_refuse (why : Refusal) : (Res.refuse why : Res ρ α).Alike R (.refuse why) := rfl

/-- The three ways two runs can end alike. -/
theorem Res.Alike.cases (h : x.Alike R x') :
    (∃ r r' a, R r r' ∧ x = .ok r a ∧ x' = .ok r' a) ∨ (∃ r r' e n, x = .raise r e n ∧ x' = .raise r' e n) ∨
      ∃ why, x = .refuse why ∧ x' = .refuse why := by
  match x, x', h with
  | .ok r a, .ok r' _, ⟨hR, rfl⟩ => exact .inl ⟨r, r', a, hR, rfl, rfl⟩
  | .raise r e n, .raise r' _ _, ⟨rfl, rfl⟩ => exact .inr (.inl ⟨r, r', e, n, rfl, rfl⟩)
  | .refuse why, .refuse _, rfl => exact .inr (.inr ⟨why, rfl, rfl⟩)

theorem Res.Alike.bind {R' : ρ → ρ → Prop} {k k' : ρ → α → Res ρ β} (hx : x.Alike R x')
    (hk : ∀ r r' a, R r r' → (k r a).Alike R' (k' r' a)) : (x.bind k).Alike R' (x'.bind k') := by
  rcases hx.cases with ⟨r, r', a, hR, rfl, rfl⟩ | ⟨r, r', e, n, rfl, rfl⟩ | ⟨why, rfl, rfl⟩
  · exact hk r r' a hR
  · exact Res.alike_raise r r' e n
  · exact Res.alike_refuse why

theorem Res.Alike.lift {R' : σ → σ → Prop} {f f' : ρ → σ} (g : α → β) (hx : x.Alike R x')
    (hf : ∀ r r', R r r' → R' (f r) (f' r')) : (x.lift f g).Alike R' (x'.lift f' g) := by
  rcases hx.cases with ⟨r, r', a, hR, rfl, rfl⟩ | ⟨r, r', e, n, rfl, rfl⟩ | ⟨why, rfl, rfl⟩
  · exact Res.alike_ok (hf r r' hR) (g a)
  · exact Res.alike_raise (f r) (f' r') e n
  · exact Res.alike_refuse why

/-- Where two runs end alike the caller sees the same. -/
theorem Res.Alike.visible_eq (h : x.Alike R x') (s s' : State) (put put' : ρ → Work) (out : α → Result) :
    visible (s.conclude put out x) = visible (s'.conclude put' out x') := by
  rcases h.cases with ⟨r, r', a, -, rfl, rfl⟩ | ⟨r, r', e, n, rfl, rfl⟩ | ⟨why, rfl, rfl⟩ <;> rfl

end Alike

/-! ### FRM -/

theorem encodeBlock_alike (cfg : Config) (f f' : FrmRegs) (type : Byte) (payload : List Byte) :
    (encodeBlock cfg f type payload).Alike (fun _ _ => True) (encodeBlock cfg f' type payload) := by
  rw [encodeBlock, encodeBlock]
  split
  · exact Res.alike_raise _ _ _ _
  · exact Res.alike_ok trivial _

theorem memRead_alike {ρ : Type} {R : ρ → ρ → Prop} {r r' : ρ} (h : R r r') (rest : List Byte) (base k : Nat) :
    (memRead r rest base k).Alike R (memRead r' rest base k) := by
  rw [memRead, memRead]
  cases rest[k]? with
  | some b => exact Res.alike_ok h b
  | none => exact Res.alike_raise _ _ _ _

/-- What the reader of a block compares is `FRM.CSUM` alone. -/
def SameChecksum (f f' : FrmRegs) : Prop := f.csum = f'.csum

theorem SameChecksum.add {f f' : FrmRegs} (h : SameChecksum f f') (b : Byte) :
    addToChecksum f.csum b = addToChecksum f'.csum b := congrArg (addToChecksum · b) h

theorem readPayload_alike (rest : List Byte) (base n : Nat) {f f' : FrmRegs} (k : Nat) (h : SameChecksum f f') :
    (readPayload f rest base k n).Alike SameChecksum (readPayload f' rest base k n) := by
  induction n generalizing f f' k with
  | zero => exact Res.alike_ok h []
  | succ n ih =>
    refine (memRead_alike h rest base k).bind fun f f' p h => ?_
    exact (ih (k + 1) (by exact h.add p)).bind fun f f' ps h => Res.alike_ok h (p :: ps)

theorem decodeBlockAt_alike (cfg : Config) (f f' : FrmRegs) (base : Nat) (rest : List Byte) :
    (decodeBlockAt cfg f base rest).Alike (fun _ _ => True) (decodeBlockAt cfg f' base rest) := by
  have hread {f f' : FrmRegs} (h : SameChecksum f f') (k : Nat) := memRead_alike h rest base k
  refine (hread (by rfl) 0).bind fun f f' b0 h => ?_
  split
  · exact Res.alike_raise _ _ _ _
  refine (hread h 1).bind fun f f' b1 h => ?_
  split
  · exact Res.alike_raise _ _ _ _
  refine (hread h 2).bind fun f f' type h => (hread (by exact h.add type) 3).bind fun f f' len h => ?_
  refine (readPayload_alike rest base len.toNat 4 (by exact h.add len)).bind fun f f' payload h => ?_
  refine (hread h _).bind fun f f' c h => ?_
  rw [show f.csum = f'.csum from h]
  split
  · exact Res.alike_raise _ _ _ _
  · exact (hread h _).bind fun _ _ _ _ => Res.alike_ok trivial _

/-! ### SEQ -/

theorem seqEncodeBlock_alike (cfg : Config) (u u' : FrmSeq) (type : Byte) (payload : List Byte) :
    (seqEncodeBlock cfg u type payload).Alike (fun _ _ => True) (seqEncodeBlock cfg u' type payload) :=
  (encodeBlock_alike cfg u.frm u'.frm type payload).lift id fun _ _ _ => trivial

theorem appendData_alike (cfg : Config) (n : Nat) (u u' : FrmSeq) (rest : List Byte) :
    (appendData cfg n u rest).Alike (fun _ _ => True) (appendData cfg n u' rest) := by
  induction n generalizing u u' rest with
  | zero => exact Res.alike_ok trivial []
  | succ n ih =>
    rw [appendData, appendData]
    split
    · exact Res.alike_ok trivial []
    · exact (seqEncodeBlock_alike _ _ _ _ _).bind fun _ _ b _ => (ih _ _ _).bind fun _ _ bs _ =>
        Res.alike_ok trivial (b ++ bs)

theorem assemble_alike (cfg : Config) (u u' : FrmSeq) (name code : List Byte) :
    (assemble cfg u name code).Alike (fun _ _ => True) (assemble cfg u' name code) :=
  (seqEncodeBlock_alike _ _ _ _ _).bind fun _ _ _ _ => (appendData_alike _ _ _ _ _).bind fun _ _ _ _ =>
    (seqEncodeBlock_alike _ _ _ _ _).bind fun _ _ _ _ => Res.alike_ok trivial _

/-- What a walk looks at: the cursor, the valid bit, the header where it is valid, the bytes collected. -/
structure SameWalk (u u' : FrmSeq) : Prop where
  off : u.seq.off = u'.seq.off
  hdrValid : u.seq.hdrValid = u'.seq.hdrValid
  hdr : u.seq.hdrValid = true → u.seq.hdr = u'.seq.hdr
  code : u.seq.code = u'.seq.code

theorem interpretBlock_alike (cfg : Config) {u u' : FrmSeq} (h : SameWalk u u') (blk : TapeBlock) :
    (interpretBlock cfg u blk).Alike SameWalk (interpretBlock cfg u' blk) := by
  obtain ⟨hoff, hvalid, hhdr, hcode⟩ := h
  simp only [interpretBlock, ← hvalid]
  split_ifs with _ _ _ _ hv _ _ hv
  · exact Res.alike_refuse _
  · exact Res.alike_ok ⟨hoff, rfl, fun _ => rfl, hcode⟩ none
  · exact Res.alike_refuse _
  · exact Res.alike_refuse _
  · exact Res.alike_refuse _
  · exact Res.alike_ok ⟨hoff, rfl, hhdr, by rw [hcode]⟩ none
  · exact Res.alike_refuse _
  · exact Res.alike_refuse _
  · rw [hcode, hhdr (by simpa using hv)]
    exact Res.alike_ok ⟨hoff, hvalid, hhdr, hcode⟩ _
  · exact Res.alike_refuse _

theorem walkTurn_alike (cfg : Config) {u u' : FrmSeq} (h : SameWalk u u') (rest : List Byte) :
    (walkTurn cfg u rest).Alike SameWalk (walkTurn cfg u' rest) := by
  obtain ⟨hoff, hvalid, hhdr, hcode⟩ := id h
  match rest with
  | [] =>
    rw [walkTurn_nil, walkTurn_nil, hoff]
    exact Res.alike_raise _ _ _ _
  | b0 :: rest =>
    simp only [walkTurn, hoff]
    split
    · exact Res.alike_raise _ _ _ _
    split
    · rw [walkBlock, walkBlock, hoff]
      refine Res.Alike.bind (R := SameWalk) ((decodeBlockAt_alike cfg u.frm u'.frm _ _).lift id
        fun f f' _ => ⟨hoff, hvalid, hhdr, hcode⟩) fun v v' r hv => interpretBlock_alike cfg ?_ r.1
      exact ⟨congrArg (· + r.2) hv.off, hv.hdrValid, hv.hdr, hv.code⟩
    · exact Res.alike_ok ⟨rfl, hvalid, hhdr, hcode⟩ none

theorem disassemble_alike (cfg : Config) (u u' : FrmSeq) (image : List Byte) :
    (disassemble cfg u image).Alike SameWalk (disassemble cfg u' image) := by
  have hloop (n : Nat) (u u' : FrmSeq) (h : SameWalk u u') :
      (walkLoop cfg image n u).Alike SameWalk (walkLoop cfg image n u') := by
    induction n generalizing u u' with
    | zero =>
      rw [walkLoop, walkLoop, h.off]
      exact Res.alike_raise _ _ _ _
    | succ n ih =>
      have hturn := walkTurn_alike cfg h (image.drop u.seq.off)
      rw [show walkTurn cfg u' (image.drop u.seq.off) = walkTurn cfg u' (image.drop u'.seq.off) by rw [h.off]] at hturn
      rcases hturn.cases with ⟨v, v', r, hv, hx, hx'⟩ | ⟨v, v', e, i, hx, hx'⟩ | ⟨why, hx, hx'⟩
      · cases r with
        | none =>
          rw [walkLoop_of_none n hx, walkLoop_of_none n hx']
          exact ih v v' hv
        | some r =>
          rw [walkLoop_of_some n hx, walkLoop_of_some n hx']
          exact Res.alike_ok hv r
      · rw [walkLoop_of_raise n hx, walkLoop_of_raise n hx']
        exact Res.alike_raise v v' e i
      · rw [walkLoop_of_refuse n hx, walkLoop_of_refuse n hx']
        exact Res.alike_refuse why
  exact hloop _ _ _ ⟨rfl, rfl, fun h => (by cases h), rfl⟩

/-! ### DEM -/

/-- What a turn of run detection looks at before it has measured its window. -/
structure SameScan (d d' : DemRegs) : Prop where
  idx : d.idx = d'.idx
  anchor : d.anchor = d'.anchor
  runs : d.runs = d'.runs

/-- What its scans look at afterwards: the thresholds too (R133). -/
structure SameThresholds (d d' : DemRegs) : Prop extends SameScan d d' where
  wn : d.wn = d'.wn
  wsum : d.wsum = d'.wsum
  wspan : d.wspan = d'.wspan

theorem measureWindow_same (cfg : Config) (S : List Sample) {d d' : DemRegs} (h : SameScan d d') :
    SameThresholds (measureWindow cfg S d) (measureWindow cfg S d') := by
  obtain ⟨hidx, hanchor, hruns⟩ := h
  exact ⟨⟨hidx, hanchor, hruns⟩, by simp only [measureWindow, hidx, hanchor],
    by simp only [measureWindow, hidx, hanchor], by simp only [measureWindow, hidx, hanchor]⟩

theorem highRun_congr {cfg : Config} {d d' : DemRegs} (hn : d.wn = d'.wn) (hs : d.wsum = d'.wsum)
    (rest : List Sample) : highRun cfg d rest = highRun cfg d' rest := by
  have hmean : aboveMean d = aboveMean d' := funext fun v => by rw [aboveMean, aboveMean, hn, hs]
  induction rest with
  | nil => rfl
  | cons v rest ih => rw [highRun, highRun, ih, anyAboveMean, anyAboveMean, hmean]

theorem scanHigh_alike (cfg : Config) (S : List Sample) {d d' : DemRegs} (h : SameThresholds d d') :
    (scanHigh cfg S d).Alike SameThresholds (scanHigh cfg S d') := by
  obtain ⟨⟨hidx, hanchor, hruns⟩, hn, hs, hp⟩ := h
  rw [scanHigh, scanHigh, highRun_congr hn hs, hidx]
  simp only
  split
  · split
    · exact Res.alike_raise _ _ _ _
    · exact Res.alike_ok ⟨⟨rfl, hanchor, by rw [hruns]⟩, hn, hs, hp⟩ ()
  · exact Res.alike_ok ⟨⟨rfl, hanchor, hruns⟩, hn, hs, hp⟩ ()

theorem skipLow_same (cfg : Config) (S : List Sample) {d d' : DemRegs} (h : SameThresholds d d') :
    SameScan (skipLow cfg S d) (skipLow cfg S d') := by
  obtain ⟨⟨hidx, hanchor, hruns⟩, hn, hs, hp⟩ := h
  have hskip := lowSkip_congr (cfg := cfg) hn hs hp (S.drop d'.idx)
  exact ⟨by simp only [skipLow, hidx, hskip], by simp only [skipLow, hidx, hskip, hanchor], hruns⟩

theorem forceProgress_same {start : Nat} {d d' : DemRegs} (h : SameScan d d') :
    SameScan (forceProgress start d) (forceProgress start d') := by
  rw [forceProgress, forceProgress, h.idx]
  split
  · exact ⟨rfl, h.anchor, h.runs⟩
  · exact h

theorem detectRuns_alike (cfg : Config) (S : List Sample) (n : Nat) {d d' : DemRegs} (h : SameScan d d') :
    (detectRuns cfg S n d).Alike SameScan (detectRuns cfg S n d') := by
  induction n generalizing d d' with
  | zero => exact Res.alike_ok h ()
  | succ n ih =>
    rw [detectRuns, detectRuns, detectTurn, detectTurn, h.idx]
    split
    · refine Res.Alike.bind (R := SameScan) ?_ fun e e' _ he => ih he
      exact (scanHigh_alike cfg S (measureWindow_same cfg S h)).bind fun e e' _ he =>
        Res.alike_ok (forceProgress_same (skipLow_same cfg S he)) ()
    · exact Res.alike_ok h ()

/-- Classification looks at the runs, and byte assembly at the bits it gives them. -/
theorem classify_alike {d d' : DemRegs} (h : d.runs = d'.runs) :
    (classify d).Alike (fun e e' => e.bits = e'.bits) (classify d') := by
  have hclass : classifyRun d = classifyRun d' := funext fun l => by rw [classifyRun, classifyRun, runLengths,
    runLengths, h]
  rw [classify, classify, h]
  split
  · exact Res.alike_raise _ _ _ _
  · exact Res.alike_ok (by simp only [runLengths, hclass, h]) ()

theorem demodulate_alike (cfg : Config) (d d' : DemRegs) (S : List Sample) :
    (demodulate cfg d S).Alike (fun _ _ => True) (demodulate cfg d' S) := by
  have hstart : SameScan (Spec.demStart d) (Spec.demStart d') := ⟨rfl, rfl, rfl⟩
  refine (detectRuns_alike cfg S S.length hstart).bind fun e e' _ he =>
    (classify_alike he.runs).bind fun f f' _ hf => ?_
  rw [assembleBytes_eq, assembleBytes_eq, show f.bits = f'.bits from hf]
  exact Res.alike_ok trivial _

theorem decodeAudio_alike (cfg : Config) (w w' : Work) (S : List Sample) :
    (decodeAudio cfg w S).Alike (fun _ _ => True) (decodeAudio cfg w' S) :=
  Res.Alike.bind (R := fun _ _ => True) ((demodulate_alike cfg w.dem w'.dem S).lift id fun _ _ _ => trivial)
    fun _ _ _ _ => (disassemble_alike cfg _ _ _).lift id fun _ _ _ => trivial

/-- Settles O9: two runs of an operation from different registers end alike; the modulator's results are functions of
its arguments. -/
theorem outcomeIgnoresEarlierState : Obligations.OutcomeIgnoresEarlierState := by
  intro i s₁ s₂ hi hcfg
  cases i with
  | encblk type payload =>
    rw [exec_encblk, exec_encblk, hcfg]
    exact (encodeBlock_alike _ _ _ _ _).visible_eq _ _ _ _ _
  | decblk bytes offset =>
    rw [exec_decblk, exec_decblk, hcfg]
    exact (decodeBlockAt_alike _ _ _ _ _).visible_eq _ _ _ _ _
  | asm name code =>
    rw [exec_asm, exec_asm, hcfg]
    exact (assemble_alike _ _ _ _ _).visible_eq _ _ _ _ _
  | disasm image =>
    rw [exec_disasm, exec_disasm, hcfg]
    exact (disassemble_alike _ _ _ _).visible_eq _ _ _ _ _
  | cyclen bit => rw [exec_cyclen, exec_cyclen, hcfg]; rfl
  | bldcyc n => rw [exec_bldcyc, exec_bldcyc, hcfg]; rfl
  | encbyte byte => rw [exec_encbyte, exec_encbyte, hcfg]; rfl
  | encstrm bytes => rw [exec_encstrm, exec_encstrm, hcfg]; rfl
  | silence q =>
    by_cases hq : q < 0
    · rw [exec_silence_of_neg s₁ hq, exec_silence_of_neg s₂ hq]
    · rw [exec_silence_of_nonneg s₁ (not_lt.mp hq), exec_silence_of_nonneg s₂ (not_lt.mp hq), hcfg]; rfl
  | modul p q => rw [exec_modul, exec_modul, hcfg]; rfl
  | demod S =>
    rw [exec_demod, exec_demod, hcfg]
    exact (demodulate_alike _ _ _ _).visible_eq _ _ _ _ _
  | encaud image => rw [exec_encaud, exec_encaud, exec_modul, exec_modul, hcfg]; rfl
  | decaud S =>
    rw [exec_decaud, exec_decaud, hcfg]
    exact (decodeAudio_alike _ _ _ _).visible_eq _ _ _ _ _
  | namefile body => cases hi
  | data body => cases hi
  | eof body => cases hi

end Sys2Proof.Machine

/-! The machine as a whole (spec/10_state.md, spec/60_exceptions.md, spec/70_reset_and_hazards.md): what a step can do,
the two ends of an operation, the frame of each, the invariant, and the obligations O1 to O8, O10 and O12. -/

namespace Sys2Proof.Machine

/-! ### A step, by what is in hand -/

theorem step_idle {s : State} (h : s.request = .idle) : step s = .next s := by
  simp only [step, fetch, h]

theorem step_call_of_ok {s : State} {code : Byte} {args : List Arg} {i : Instr} (h : s.request = .call code args)
    (hdec : decodeOp code args = .ok i) : step s = exec i s := by
  simp only [step, fetch, h, hdec]

theorem step_call_of_error {s : State} {code : Byte} {args : List Arg} {e : DecodeError}
    (h : s.request = .call code args) (hdec : decodeOp code args = .error e) : step s = notDecoded s e := by
  simp only [step, fetch, h, hdec]

theorem notDecoded_invalidCode {s : State} {code c : Byte} {args : List Arg} (h : s.request = .call code args) :
    notDecoded s (.invalidCode c) = .next { s with request := .idle } := by
  simp only [notDecoded, h]

theorem notDecoded_call {s t : State} {code : Byte} {args : List Arg} {e : DecodeError}
    (h : s.request = .call code args) (hnext : notDecoded s e = .next t) : t = { s with request := .idle } := by
  cases e <;> simp only [notDecoded, h] at hnext <;> cases hnext
  rfl

theorem isOperation_of_encode {cfg : Config} {i : Instr} {code : Byte} {args : List Arg}
    (h : encode cfg i = .op code args) : i.isOperation = true := by
  cases i with
  | namefile body => cases h
  | data body => cases h
  | eof body => cases h
  | _ => rfl

/-- What a step that leads on has done: nothing, dropped a call of an unknown code, run an operation, or taken a turn of
the walk in hand. -/
theorem step_eq_next {s t : State} (h : step s = .next t) :
    t = s ∨ t = { s with request := .idle } ∨ (∃ i : Instr, i.isOperation = true ∧ exec i s = .next t) ∨
      ∃ image, s.request = .walk image ∧
        s.concludeTurn (walkTurn s.cfg s.work.frmSeq (image.drop s.work.seq.off)) = .next t := by
  cases hreq : s.request with
  | idle =>
    rw [step_idle hreq] at h
    cases h
    exact .inl rfl
  | call code args =>
    cases hdec : decodeOp code args with
    | ok i =>
      rw [step_call_of_ok hreq hdec] at h
      exact .inr (.inr (.inl ⟨i, isOperation_of_encode (decodeOp_eq_ok s.cfg hdec).1, h⟩))
    | error e =>
      rw [step_call_of_error hreq hdec] at h
      exact .inr (.inl (notDecoded_call hreq h))
  | walk image =>
    rw [step_walk hreq] at h
    exact .inr (.inr (.inr ⟨image, rfl, h⟩))

/-- Settles O5, for a call and for a walk. -/
theorem stepRunsDecodedInstruction : Obligations.StepRunsDecodedInstruction := fun _ _ =>
  ⟨fun _ _ hreq hdec => step_call_of_ok hreq hdec, fun _ hreq hdec => by
    rw [step_walk hreq, exec_eq_walkTurn hdec]⟩

/-- Settles O6: `step_idle`. -/
theorem idleStepChangesNothing : Obligations.IdleStepChangesNothing := fun _ => step_idle

theorem decodeOp_of_unknown {code : Byte} (h : code ∉
    ([0x01, 0x02, 0x03, 0x04, 0x10, 0x11, 0x12, 0x13, 0x14, 0x15, 0x20, 0x30, 0x31] : List Byte)) (args : List Arg) :
    decodeOp code args = .error (.invalidCode code) := by
  simp only [List.mem_cons, List.not_mem_nil, or_false, not_or] at h
  simp only [decodeOp, h, if_false]

/-- Settles O7: the decoder knows no such code. -/
theorem unknownCodeChangesNothing : Obligations.UnknownCodeChangesNothing := fun _ _ args hcode hreq => by
  rw [step_call_of_error hreq (decodeOp_of_unknown hcode args), notDecoded_invalidCode hreq]

/-- Settles O8: an ill-typed call decodes to no instruction, and is not an unknown code. -/
theorem illTypedCallFaults : Obligations.IllTypedCallFaults := fun _ _ _ hreq hdec => by
  rw [step_call_of_error hreq hdec]
  simp only [notDecoded, hreq]

/-! ### Legal results (R71, R74, R105) -/

theorem samplesInRange_iff {S : List Sample} : samplesInRange S = true ↔ ∀ v ∈ S, -32768 ≤ v ∧ v ≤ 32767 := by
  simp [samplesInRange, sampleInRange]

/-- The three levels the modulator sends are 16-bit samples: `AMP` is at most 32767 (R19). -/
theorem level_inRange (cfg : Config) {v : Int} (h : v = cfg.amp ∨ v = -(cfg.amp : Int) ∨ v = 0) :
    -32768 ≤ v ∧ v ≤ 32767 := by
  have hamp := cfg.legal
  rcases h with rfl | rfl | rfl <;> omega

theorem samplesInRange_buildCycle (cfg : Config) (n : Nat) : samplesInRange (buildCycle cfg n) = true := by
  refine samplesInRange_iff.mpr fun v hv => level_inRange cfg ?_
  rcases List.mem_append.mp hv with hv | hv
  · exact .inl (List.eq_of_mem_replicate hv)
  · exact .inr (.inl (List.eq_of_mem_replicate hv))

theorem samplesInRange_flatMap_cycle (cfg : Config) (bits : List Bool) :
    samplesInRange (bits.flatMap (Spec.cycle cfg)) = true := by
  refine samplesInRange_iff.mpr fun v hv => ?_
  obtain ⟨bit, -, hv⟩ := List.mem_flatMap.mp hv
  rw [← buildCycle_cyclesForBit] at hv
  exact samplesInRange_iff.mp (samplesInRange_buildCycle cfg _) v hv

theorem samplesInRange_zeros (cfg : Config) (n : Nat) : samplesInRange (List.replicate n 0) = true :=
  samplesInRange_iff.mpr fun _ hv => level_inRange cfg (.inr (.inr (List.eq_of_mem_replicate hv)))

theorem samplesInRange_append {S T : List Sample} (hS : samplesInRange S = true) (hT : samplesInRange T = true) :
    samplesInRange (S ++ T) = true := by
  rw [samplesInRange, List.all_append]
  exact Bool.and_eq_true_iff.mpr ⟨hS, hT⟩

theorem length_parseNamefile_programName (h : Vector Byte 15) : (parseNamefile h).programName.length = 8 := by
  rw [parseNamefile_programName]
  rfl

theorem decodeBlockAt_legal {cfg : Config} {f0 f : FrmRegs} {base : Nat} {rest : List Byte} {r : TapeBlock × Nat}
    (h : decodeBlockAt cfg f0 base rest = .ok f r) : (Result.block r.1 r.2).legal := by
  obtain ⟨len, -, -, -, -, -, -, -, hlen, hn, -⟩ := decodeBlockAt_eq_ok h
  have hbyte := len.isLt
  exact ⟨by rw [hn, hlen], by omega⟩

/-! ### Where the walk ends with a result -/

/-- A turn that ends the walk is at an EndOfFile block and shows the header it holds (R104). -/
theorem walkTurn_eq_some {cfg : Config} {u u' : FrmSeq} {rest : List Byte} {r : NamefileHeader × List Byte}
    (h : walkTurn cfg u rest = .ok u' (some r)) : r = (parseNamefile u'.seq.hdr, u'.seq.code) := by
  obtain ⟨-, -, hnone⟩ | ⟨f, blk, n, -, -, hint⟩ := walkTurn_cases h
  · cases hnone
  · obtain ⟨-, -, -, ⟨-, -, hnone, -⟩ | ⟨-, hnone, -⟩ | ⟨-, -, -, rfl, hsome⟩⟩ := interpretBlock_eq_ok hint
    · cases hnone
    · cases hnone
    · exact Option.some.inj hsome

/-- Every turn of a loop that ends with a result has left `SEQ.POS` alone, and the result is the header held and the
bytes collected. -/
theorem disassemble_eq_ok {cfg : Config} {u u' : FrmSeq} {image : List Byte} {r : NamefileHeader × List Byte}
    (h : disassemble cfg u image = .ok u' r) :
    u'.seq.pos = u.seq.pos ∧ r = (parseNamefile u'.seq.hdr, u'.seq.code) := by
  have hloop (n : Nat) (v : FrmSeq) (h : walkLoop cfg image n v = .ok u' r) :
      u'.seq.pos = v.seq.pos ∧ r = (parseNamefile u'.seq.hdr, u'.seq.code) := by
    induction n generalizing v with
    | zero => cases h
    | succ n ih =>
      cases hturn : walkTurn cfg v (image.drop v.seq.off) with
      | ok v' r' =>
        obtain ⟨-, -, hpos, -⟩ := walkTurn_eq_ok hturn
        cases r' with
        | none =>
          rw [walkLoop_of_none n hturn] at h
          obtain ⟨hpos', hr⟩ := ih v' h
          exact ⟨hpos'.trans hpos, hr⟩
        | some r' =>
          rw [walkLoop_of_some n hturn] at h
          cases h
          exact ⟨hpos, walkTurn_eq_some hturn⟩
      | raise v' e i => rw [walkLoop_of_raise n hturn] at h; cases h
      | refuse why => rw [walkLoop_of_refuse n hturn] at h; cases h
  exact hloop (image.length + 1) u.startWalk h

/-! ### The two ends of an operation -/

/-- An operation has ended: a legal result has been delivered, or a failure taken. -/
def Ended (s t : State) : Prop :=
  (∃ w r, r.legal ∧ t = s.deliver w r) ∨ ∃ w e n, t = s.takeFailure w e n

theorem ended_of_deliver {s t : State} {w : Work} {r : Result}
    (h : (.next (s.deliver w r) : Host.Outcome State Fault Refusal) = .next t) (hr : r.legal) : Ended s t :=
  .inl ⟨w, r, hr, by cases h; rfl⟩

theorem ended_of_conclude {ρ α : Type} {s t : State} {put : ρ → Work} {out : α → Result} {x : Res ρ α}
    (h : s.conclude put out x = .next t) (hr : ∀ r a, x = .ok r a → (out a).legal) : Ended s t := by
  rcases State.conclude_eq_next h with ⟨r, a, hx, rfl⟩ | ⟨r, e, n, -, rfl⟩
  · exact .inl ⟨_, _, hr r a hx, rfl⟩
  · exact .inr ⟨_, _, _, rfl⟩

theorem disassemble_legal {cfg : Config} {u u' : FrmSeq} {image : List Byte} {r : NamefileHeader × List Byte}
    (h : disassemble cfg u image = .ok u' r) : (Result.program r.1 r.2).legal := by
  obtain ⟨-, rfl⟩ := disassemble_eq_ok h
  exact length_parseNamefile_programName _

theorem exec_operation_ended {i : Instr} {s t : State} (hi : i.isOperation = true) (h : exec i s = .next t) :
    Ended s t := by
  cases i with
  | encblk type payload => exact ended_of_conclude h fun _ _ _ => trivial
  | decblk bytes offset => exact ended_of_conclude h fun _ _ hx => decodeBlockAt_legal hx
  | asm name code => exact ended_of_conclude h fun _ _ _ => trivial
  | disasm image => exact ended_of_conclude h fun _ _ hx => disassemble_legal hx
  | cyclen bit => exact ended_of_deliver h trivial
  | bldcyc n => exact ended_of_deliver h (samplesInRange_buildCycle _ _)
  | encbyte byte =>
    rw [exec_encbyte] at h
    exact ended_of_deliver h (samplesInRange_flatMap_cycle _ _)
  | encstrm bytes =>
    rw [exec_encstrm] at h
    exact ended_of_deliver h (samplesInRange_flatMap_cycle _ _)
  | silence q =>
    by_cases hq : q < 0
    · rw [exec_silence_of_neg s hq] at h
      cases h
    · rw [exec_silence_of_nonneg s (not_lt.mp hq)] at h
      exact ended_of_deliver h (samplesInRange_zeros s.cfg _)
  | modul p q =>
    rw [exec_modul] at h
    exact ended_of_deliver h (samplesInRange_append (samplesInRange_append (samplesInRange_flatMap_cycle _ _)
      (samplesInRange_zeros s.cfg _)) (samplesInRange_flatMap_cycle _ _))
  | demod S => exact ended_of_conclude h fun _ _ _ => trivial
  | encaud image =>
    rw [exec_encaud, exec_modul] at h
    exact ended_of_deliver h (samplesInRange_append (samplesInRange_append (samplesInRange_flatMap_cycle _ _)
      (samplesInRange_zeros s.cfg _)) (samplesInRange_flatMap_cycle _ _))
  | decaud S =>
    refine ended_of_conclude h fun w r hx => ?_
    obtain ⟨w', r', -, hlift⟩ := Res.bind_eq_ok.mp hx
    obtain ⟨u, r'', hdis, -, rfl⟩ := Res.lift_eq_ok.mp hlift
    exact disassemble_legal hdis
  | namefile body => cases hi
  | data body => cases hi
  | eof body => cases hi

/-! ### The three ends of a turn -/

/-- A block row is the turn of the walk at its block. -/
theorem exec_block_row {i : Instr} (hi : i.isOperation = false) (s : State) :
    ∃ rest, exec i s = s.concludeTurn (walkBlock s.cfg s.work.frmSeq rest) := by
  cases i with
  | namefile body => exact ⟨_, rfl⟩
  | data body => exact ⟨_, rfl⟩
  | eof body => exact ⟨_, rfl⟩
  | _ => cases hi

theorem failureTaken_takeFailure (s : State) (w : Work) (e : Failure) (n : Nat) :
    Spec.FailureTaken s (s.takeFailure w e n) :=
  ⟨e, s.takeFailure_err .., s.takeFailure_result .., s.takeFailure_request .., s.takeFailure_cfg ..,
    s.takeFailure_free ..⟩

theorem failureTaken_of_ended {s t : State} (h : Ended s t) (herr : t.err ≠ 0) : Spec.FailureTaken s t := by
  rcases h with ⟨w, r, -, rfl⟩ | ⟨w, e, n, rfl⟩
  · exact absurd (s.deliver_err w r) herr
  · exact failureTaken_takeFailure s w e n

theorem failureTaken_or_goesOn_of_turn {s t : State} {x : Res FrmSeq (Option (NamefileHeader × List Byte))}
    (h : s.concludeTurn x = .next t) (herr : t.err ≠ 0) : Spec.FailureTaken s t ∨ Spec.GoesOn s t := by
  rcases State.concludeTurn_eq_next h with ⟨u, -, rfl⟩ | ⟨u, hdr, code, -, rfl⟩ | ⟨u, e, n, -, rfl⟩
  · exact .inr rfl
  · exact absurd (s.deliver_err _ _) herr
  · exact .inl (failureTaken_takeFailure s _ e n)

/-- Settles O10: an operation has one way to end with `ERR` not 0, a turn of a walk that and the one of going on. -/
theorem failureIsTaken : Obligations.FailureIsTaken := by
  refine ⟨fun i s t hi h herr => failureTaken_of_ended (exec_operation_ended hi h) herr, fun i s t h herr => ?_,
    fun s t image hwalk h herr => ?_⟩
  · cases hi : i.isOperation with
    | true => exact .inl (failureTaken_of_ended (exec_operation_ended hi h) herr)
    | false =>
      obtain ⟨rest, hrow⟩ := exec_block_row hi s
      exact (failureTaken_or_goesOn_of_turn (hrow.symm.trans h) herr).imp_right fun hgoes => ⟨rfl, hgoes⟩
  · rw [step_walk hwalk] at h
    exact failureTaken_or_goesOn_of_turn h herr

/-! ### Configuration and invariant -/

/-- Settles O4: neither end of an operation or a turn writes the configuration. -/
theorem stepKeepsConfiguration : Obligations.StepKeepsConfiguration := by
  intro s t h
  obtain rfl | rfl | ⟨i, hi, hexec⟩ | ⟨image, -, hturn⟩ := step_eq_next h
  · rfl
  · rfl
  · obtain ⟨w, r, -, rfl⟩ | ⟨w, e, n, rfl⟩ := exec_operation_ended hi hexec
    · exact s.deliver_cfg w r
    · exact s.takeFailure_cfg w e n
  · obtain ⟨u, -, rfl⟩ | ⟨u, hdr, code, -, rfl⟩ | ⟨u, e, n, -, rfl⟩ := State.concludeTurn_eq_next hturn
    · rfl
    · exact s.deliver_cfg _ _
    · exact s.takeFailure_cfg _ _ _

/-- Settles O1: the reset state's own fields. -/
theorem resetClearsErr : Obligations.ResetClearsErr := ⟨rfl, rfl, rfl, rfl⟩

/-- Settles O2, clause by clause: nothing is in hand and nothing shown. -/
theorem resetMeetsInvariant : Obligations.ResetMeetsInvariant where
  err_le := Nat.zero_le _
  void_of_err := fun _ => rfl
  info_of_ok := fun _ => rfl
  result_legal := trivial
  walk := trivial

theorem State.Inv.setIdle {s : State} (h : s.Inv) : State.Inv { s with request := .idle } :=
  { h with walk := trivial }

theorem deliver_inv (s : State) (w : Work) {r : Result} (hr : r.legal) : (s.deliver w r).Inv where
  err_le := Nat.zero_le _
  void_of_err := fun h => absurd (s.deliver_err w r) h
  info_of_ok := fun _ => s.deliver_info w r
  result_legal := hr
  walk := trivial

theorem takeFailure_inv (s : State) (w : Work) (e : Failure) (n : Nat) : (s.takeFailure w e n).Inv where
  err_le := by rw [State.takeFailure_err]; cases e <;> decide
  void_of_err := fun _ => rfl
  info_of_ok := fun h => absurd h e.code_ne_zero
  result_legal := trivial
  walk := trivial

theorem walkInv_iff {s : State} {image : List Byte} (h : s.request = .walk image) :
    walkInv s ↔ s.work.seq.off ≤ image.length ∧ (s.work.seq.hdrValid = false → s.work.seq.code = []) := by
  simp only [walkInv, h]

/-- A turn after which the walk goes on keeps the cursor inside the image and collects nothing before a header. -/
theorem turn_keeps_inv {s : State} {image : List Byte} {u : FrmSeq} (hs : s.Inv) (hwalk : s.request = .walk image)
    (hturn : walkTurn s.cfg s.work.frmSeq (image.drop s.work.seq.off) = .ok u none) :
    State.Inv { s with work := s.work.putFrmSeq u } := by
  obtain ⟨hoff, hcode⟩ := (walkInv_iff hwalk).mp hs.walk
  obtain ⟨-, hle, -, hkeep⟩ := walkTurn_eq_ok hturn
  rw [List.length_drop, Work.frmSeq_seq] at hle
  have hinv : walkInv { s with work := s.work.putFrmSeq u } :=
    (walkInv_iff (s := { s with work := s.work.putFrmSeq u }) hwalk).mpr
      ⟨by rw [Work.putFrmSeq_seq]; omega, hkeep hcode⟩
  exact { hs with walk := hinv }

/-- Settles O3, by what a step can do: nothing, the two ends of an operation or of a walk, or a turn that goes on. -/
theorem stepKeepsInvariant : Obligations.StepKeepsInvariant := by
  intro s t hs h
  obtain rfl | rfl | ⟨i, hi, hexec⟩ | ⟨image, hwalk, hturn⟩ := step_eq_next h
  · exact hs
  · exact hs.setIdle
  · obtain ⟨w, r, hr, rfl⟩ | ⟨w, e, n, rfl⟩ := exec_operation_ended hi hexec
    · exact deliver_inv s w hr
    · exact takeFailure_inv s w e n
  · obtain ⟨u, hx, rfl⟩ | ⟨u, hdr, code, hx, rfl⟩ | ⟨u, e, n, -, rfl⟩ := State.concludeTurn_eq_next hturn
    · exact turn_keeps_inv hs hwalk hx
    · refine deliver_inv s _ ?_
      obtain ⟨rfl, -⟩ := Prod.mk.inj (walkTurn_eq_some hx)
      exact length_parseNamefile_programName _
    · exact takeFailure_inv s _ e n

/-! ### Frames (R191) -/

section Frames
variable {s t : State} (herr : t.err = 0)
include herr

/-- With `ERR` 0 an operation has delivered. -/
theorem conclude_eq_next_of_ok {ρ α : Type} {put : ρ → Work} {out : α → Result} {x : Res ρ α}
    (h : s.conclude put out x = .next t) : ∃ r a, x = .ok r a ∧ t.work = put r := by
  rcases State.conclude_eq_next h with ⟨r, a, hx, rfl⟩ | ⟨r, e, n, -, rfl⟩
  · exact ⟨r, a, hx, rfl⟩
  · exact absurd herr e.code_ne_zero

theorem operation_frame {i : Instr} (hi : i.isOperation = true) (h : exec i s = .next t) :
    t.cfg = s.cfg ∧ t.free = s.free ∧ t.info = 0 ∧ t.request = .idle := by
  obtain ⟨w, r, -, rfl⟩ | ⟨w, e, n, rfl⟩ := exec_operation_ended hi h
  · exact ⟨rfl, rfl, rfl, rfl⟩
  · exact absurd herr e.code_ne_zero

theorem block_row_frame {i : Instr} (hi : i.isOperation = false) (h : exec i s = .next t) :
    (Spec.GoesOn s t ∨ (t.cfg = s.cfg ∧ t.free = s.free ∧ t.info = 0 ∧ t.request = .idle)) ∧
      t.work.mod = s.work.mod ∧ t.work.dem = s.work.dem ∧ t.work.seq.pos = s.work.seq.pos := by
  obtain ⟨rest, hrow⟩ := exec_block_row hi s
  have hpos {u : FrmSeq} {r : Option (NamefileHeader × List Byte)}
      (hx : walkBlock s.cfg s.work.frmSeq rest = .ok u r) : u.seq.pos = s.work.seq.pos := by
    obtain ⟨f, blk, n, -, -, -, hint⟩ := walkBlock_eq_ok hx
    obtain ⟨-, -, hpos, -⟩ := interpretBlock_eq_ok hint
    exact hpos
  obtain ⟨u, hx, rfl⟩ | ⟨u, hdr, code, hx, rfl⟩ | ⟨u, e, n, -, rfl⟩ :=
    State.concludeTurn_eq_next (hrow.symm.trans h)
  · exact ⟨.inl rfl, rfl, rfl, hpos hx⟩
  · exact ⟨.inr ⟨rfl, rfl, rfl, rfl⟩, rfl, rfl, hpos hx⟩
  · exact absurd herr e.code_ne_zero

theorem disasm_frame {image : List Byte} (h : exec (.disasm image) s = .next t) :
    t.work.mod = s.work.mod ∧ t.work.dem = s.work.dem ∧ t.work.seq.pos = s.work.seq.pos := by
  obtain ⟨u, r, hdis, hwork⟩ := conclude_eq_next_of_ok herr h
  rw [hwork]
  exact ⟨rfl, rfl, (disassemble_eq_ok hdis).1⟩

theorem decblk_frame {bytes : List Byte} {offset : Nat} (h : exec (.decblk bytes offset) s = .next t) :
    t.work.seq = s.work.seq ∧ t.work.mod = s.work.mod ∧ t.work.dem = s.work.dem := by
  obtain ⟨f, r, -, hwork⟩ := conclude_eq_next_of_ok herr h
  rw [hwork]
  exact ⟨rfl, rfl, rfl⟩

theorem demod_frame {S : List Sample} (h : exec (.demod S) s = .next t) :
    t.work.frm = s.work.frm ∧ t.work.seq = s.work.seq ∧ t.work.mod = s.work.mod := by
  obtain ⟨d, r, -, hwork⟩ := conclude_eq_next_of_ok herr h
  rw [hwork]
  exact ⟨rfl, rfl, rfl⟩

theorem decaud_frame {S : List Sample} (h : exec (.decaud S) s = .next t) :
    t.work.mod = s.work.mod ∧ t.work.seq.pos = s.work.seq.pos := by
  obtain ⟨w, r, hx, hwork⟩ := conclude_eq_next_of_ok herr h
  obtain ⟨w₁, r₁, hdem, hlift⟩ := Res.bind_eq_ok.mp hx
  obtain ⟨d, -, -, rfl, -⟩ := Res.lift_eq_ok.mp hdem
  obtain ⟨u, r₂, hdis, rfl, -⟩ := Res.lift_eq_ok.mp hlift
  rw [hwork]
  exact ⟨rfl, (disassemble_eq_ok hdis).1⟩

end Frames

/-- Settles O12, one frame lemma for each clause. -/
theorem unusedRegistersUnchanged : Obligations.UnusedRegistersUnchanged := fun _ _ herr =>
  ⟨fun _ => operation_frame herr, fun _ => block_row_frame herr, fun _ => disasm_frame herr,
    fun _ _ => decblk_frame herr, fun _ => demod_frame herr, fun _ => decaud_frame herr⟩

end Sys2Proof.Machine

/-! Demodulator DEM on every buffer (spec/43_fsk_demodulator.md, R130 to R148): the window, the scans, a turn whole, the
chain of turns, what a delivered result says, and the obligations O46 to O51. -/

namespace Sys2Proof.Machine

/-! ### The reference window (R132, R133) -/

theorem foldl_max_ge (v : Int) (vs : List Int) : ∀ x ∈ v :: vs, x ≤ vs.foldl max v := by
  induction vs generalizing v with
  | nil => simp
  | cons w vs ih =>
    intro x hx
    rw [List.foldl_cons]
    have hhead := ih (max v w) _ List.mem_cons_self
    rcases List.mem_cons.mp hx with rfl | hx
    · exact (le_max_left _ _).trans hhead
    rcases List.mem_cons.mp hx with rfl | hx
    · exact (le_max_right _ _).trans hhead
    · exact ih _ x (List.mem_cons_of_mem _ hx)

theorem foldl_min_le (v : Int) (vs : List Int) : ∀ x ∈ v :: vs, vs.foldl min v ≤ x := by
  induction vs generalizing v with
  | nil => simp
  | cons w vs ih =>
    intro x hx
    rw [List.foldl_cons]
    have hhead := ih (min v w) _ List.mem_cons_self
    rcases List.mem_cons.mp hx with rfl | hx
    · exact hhead.trans (min_le_left _ _)
    rcases List.mem_cons.mp hx with rfl | hx
    · exact hhead.trans (min_le_right _ _)
    · exact ih _ x (List.mem_cons_of_mem _ hx)

theorem le_maxSample {w : List Sample} {x : Sample} (hx : x ∈ w) : x ≤ maxSample w := by
  cases w with
  | nil => cases hx
  | cons v vs => exact foldl_max_ge v vs x hx

theorem minSample_le {w : List Sample} {x : Sample} (hx : x ∈ w) : minSample w ≤ x := by
  cases w with
  | nil => cases hx
  | cons v vs => exact foldl_min_le v vs x hx

theorem windowSpan_eq (S : List Sample) (i : Nat) {w : List Sample} (h : w ≠ []) :
    (windowSpan S i w : Int) = maxSample w - minSample w := by
  rw [windowSpan_of_ne_nil S i h, Int.toNat_of_nonneg]
  exact Int.sub_nonneg_of_le (le_maxSample (minSample_mem h))

/-- The span is the largest difference of two samples of the window (R133). -/
theorem sub_le_windowSpan (S : List Sample) (i : Nat) {w : List Sample} {x y : Sample} (hx : x ∈ w) (hy : y ∈ w) :
    x - y ≤ windowSpan S i w := by
  rw [windowSpan_eq S i (List.ne_nil_of_mem hx)]
  exact Int.sub_le_sub (le_maxSample hx) (minSample_le hy)

theorem exists_sub_eq_windowSpan (S : List Sample) (i : Nat) {w : List Sample} (h : w ≠ []) :
    ∃ x ∈ w, ∃ y ∈ w, x - y = windowSpan S i w :=
  ⟨maxSample w, maxSample_mem h, minSample w, minSample_mem h, (windowSpan_eq S i h).symm⟩

/-- Settles O46: where the window has samples its span is attained, and without any it is the free value. -/
theorem windowIsMeasured : Obligations.WindowIsMeasured := by
  intro cfg S d hidx hanchor m W w
  have hws : m.ws = max d.anchor (d.idx - W) := rfl
  have hwe : m.we = min (m.ws + W) S.length := rfl
  have hwn : m.wn = m.we - m.ws := rfl
  have hlen : w.length = m.wn := (measureWindow_wn cfg S d).symm
  have hspan : m.wspan = windowSpan S d.idx w := rfl
  refine ⟨hws, hwe, hwn, by omega, hlen, rfl, fun hfreq => ?_, fun hfreq => ?_, rfl⟩
  · have hpos : 0 < W := (Config.windowLen_pos_iff cfg).mpr hfreq
    have hone : 1 ≤ m.wn := by omega
    rw [hspan]
    exact ⟨hone, fun x hx y hy => sub_le_windowSpan S d.idx hx hy,
      exists_sub_eq_windowSpan S d.idx (List.ne_nil_of_length_pos (by omega))⟩
  · have hzero : W = 0 := Nat.eq_zero_of_not_pos fun hpos =>
      absurd ((Config.windowLen_pos_iff cfg).mp hpos) (Nat.not_le.mpr hfreq)
    have hwn0 : m.wn = 0 := by omega
    rw [hspan, List.eq_nil_of_length_eq_zero (hlen.trans hwn0)]
    exact ⟨hwn0, (windowSpan_nil S d.idx).2⟩

/-! ### The scans (R136, R139) -/

theorem anyAboveMean_iff (cfg : Config) (d : DemRegs) (rest : List Sample) : anyAboveMean cfg d rest = true ↔
    ∃ j ≤ cfg.lookahead, ∃ v, rest[j]? = some v ∧ aboveMean d v = true := by
  simp only [anyAboveMean, List.any_eq_true, List.mem_take_iff_getElem]
  constructor
  · rintro ⟨v, ⟨j, hj, rfl⟩, hv⟩
    exact ⟨j, by omega, _, List.getElem?_eq_getElem (by omega), hv⟩
  · rintro ⟨j, hj, v, hget, hv⟩
    obtain ⟨hlt, rfl⟩ := List.getElem?_eq_some_iff.mp hget
    exact ⟨_, ⟨j, by omega, rfl⟩, hv⟩

section Scan
variable (cfg : Config) (d : DemRegs)

theorem highRun_cons_of_any {v : Sample} {rest : List Sample} (h : anyAboveMean cfg d (v :: rest) = true) :
    highRun cfg d (v :: rest) = highRun cfg d rest + 1 := if_pos h

theorem highRun_cons_of_not_any {v : Sample} {rest : List Sample} (h : ¬ anyAboveMean cfg d (v :: rest) = true) :
    highRun cfg d (v :: rest) = 0 := if_neg h

theorem lowSkip_cons_of_below {v : Sample} {rest : List Sample} (h : belowTrigger cfg d v = true) :
    lowSkip cfg d (v :: rest) = lowSkip cfg d rest + 1 := if_pos h

theorem lowSkip_cons_of_not_below {v : Sample} {rest : List Sample} (h : ¬ belowTrigger cfg d v = true) :
    lowSkip cfg d (v :: rest) = 0 := if_neg h

theorem exists_above_of_lt_highRun (rest : List Sample) {k : Nat} (hk : k < highRun cfg d rest) :
    ∃ j ≤ cfg.lookahead, ∃ v, rest[k + j]? = some v ∧ aboveMean d v = true := by
  induction rest generalizing k with
  | nil => cases hk
  | cons v rest ih =>
    by_cases hany : anyAboveMean cfg d (v :: rest) = true
    · rw [highRun_cons_of_any cfg d hany] at hk
      cases k with
      | zero => simpa only [Nat.zero_add] using (anyAboveMean_iff cfg d _).mp hany
      | succ k =>
        simp only [Nat.add_right_comm k 1, List.getElem?_cons_succ]
        exact ih (Nat.lt_of_succ_lt_succ hk)
    · rw [highRun_cons_of_not_any cfg d hany] at hk
      cases hk

theorem not_above_at_highRun (rest : List Sample) (h : highRun cfg d rest < rest.length) {j : Nat}
    (hj : j ≤ cfg.lookahead) {v : Sample} (hv : rest[highRun cfg d rest + j]? = some v) : aboveMean d v = false := by
  induction rest with
  | nil => cases h
  | cons w rest ih =>
    by_cases hany : anyAboveMean cfg d (w :: rest) = true
    · rw [highRun_cons_of_any cfg d hany] at h hv
      rw [Nat.add_right_comm, List.getElem?_cons_succ] at hv
      exact ih (Nat.lt_of_succ_lt_succ h) hv
    · rw [highRun_cons_of_not_any cfg d hany, Nat.zero_add] at hv
      exact Bool.eq_false_of_not_eq_true fun habove =>
        hany ((anyAboveMean_iff cfg d _).mpr ⟨j, hj, v, hv, habove⟩)

theorem below_of_lt_lowSkip (rest : List Sample) {k : Nat} (hk : k < lowSkip cfg d rest) :
    ∃ v, rest[k]? = some v ∧ belowTrigger cfg d v = true := by
  induction rest generalizing k with
  | nil => cases hk
  | cons v rest ih =>
    by_cases hbelow : belowTrigger cfg d v = true
    · rw [lowSkip_cons_of_below cfg d hbelow] at hk
      cases k with
      | zero => exact ⟨v, rfl, hbelow⟩
      | succ k => exact ih (Nat.lt_of_succ_lt_succ hk)
    · rw [lowSkip_cons_of_not_below cfg d hbelow] at hk
      cases hk

theorem not_below_at_lowSkip (rest : List Sample) {v : Sample} (hv : rest[lowSkip cfg d rest]? = some v) :
    belowTrigger cfg d v = false := by
  induction rest with
  | nil => cases hv
  | cons w rest ih =>
    by_cases hbelow : belowTrigger cfg d w = true
    · rw [lowSkip_cons_of_below cfg d hbelow] at hv
      exact ih hv
    · rw [lowSkip_cons_of_not_below cfg d hbelow] at hv
      cases hv
      exact Bool.eq_false_of_not_eq_true hbelow

end Scan

/-- Settles O47, each clause by induction along the scan. -/
theorem scansStopWhereTheySay : Obligations.ScansStopWhereTheySay := fun cfg d rest =>
  ⟨fun _ hk => exists_above_of_lt_highRun cfg d rest hk,
    fun h _ hj _ hv => not_above_at_highRun cfg d rest h hj hv,
    fun _ hk => below_of_lt_lowSkip cfg d rest hk, fun _ hv => not_below_at_lowSkip cfg d rest hv,
    highRun_le cfg d rest, lowSkip_le cfg d rest⟩

/-! ### A turn, whole (R135 to R141) -/

section Turn
variable (cfg : Config) (S : List Sample) (d : DemRegs)

/-- The length of the high run that the turn at `d` finds. -/
def turnRun : Nat := highRun cfg (measureWindow cfg S d) (S.drop d.idx)

/-- The length of the low-run skip of that turn. -/
def turnSkip : Nat := lowSkip cfg (measureWindow cfg S d) (S.drop (d.idx + turnRun cfg S d))

/-- The registers after a turn whose high run is not cut by the end of the buffer. -/
def turnEnd : DemRegs :=
  { measureWindow cfg S d with
    run := turnRun cfg S d
    skip := turnSkip cfg S d
    runs := if turnRun cfg S d = 0 then d.runs
      else d.runs ++ [{ lengthInSamples := turnRun cfg S d, classifiedBit := .unknown }]
    idx := if turnRun cfg S d = 0 ∧ turnSkip cfg S d = 0 then d.idx + 1
      else d.idx + turnRun cfg S d + turnSkip cfg S d
    anchor := if turnSkip cfg S d > windowLen cfg then d.idx + turnRun cfg S d + turnSkip cfg S d else d.anchor }

variable {cfg S d}

theorem detectTurn_of_cut (hpos : 0 < turnRun cfg S d) (hcut : d.idx + turnRun cfg S d = S.length) :
    ∃ r, detectTurn cfg S d = .raise r .truncatedInputError d.idx := by
  have hscan : ∃ r, scanHigh cfg S (measureWindow cfg S d) = .raise r .truncatedInputError d.idx :=
    ⟨_, (if_pos hpos).trans (if_pos hcut)⟩
  obtain ⟨r, hr⟩ := hscan
  exact ⟨r, by rw [detectTurn, hr, Res.bind_raise]⟩

/-- Step 2 of a turn that is not cut. -/
theorem scanHigh_of_not_cut (h : ¬(0 < turnRun cfg S d ∧ d.idx + turnRun cfg S d = S.length)) :
    scanHigh cfg S (measureWindow cfg S d) = .ok { measureWindow cfg S d with
      run := turnRun cfg S d
      idx := d.idx + turnRun cfg S d
      runs := if turnRun cfg S d = 0 then d.runs
        else d.runs ++ [{ lengthInSamples := turnRun cfg S d, classifiedBit := .unknown }] } () := by
  by_cases hzero : turnRun cfg S d = 0
  · have hscan : scanHigh cfg S (measureWindow cfg S d) =
        .ok { measureWindow cfg S d with run := turnRun cfg S d, idx := d.idx + turnRun cfg S d } () :=
      if_neg (Nat.not_lt.mpr hzero.le)
    rw [hscan, if_pos hzero]
    rfl
  · have hpos := Nat.pos_of_ne_zero hzero
    rw [if_neg hzero]
    exact (if_pos hpos).trans (if_neg fun hcut => h ⟨hpos, hcut⟩)

theorem detectTurn_of_not_cut (h : ¬(0 < turnRun cfg S d ∧ d.idx + turnRun cfg S d = S.length)) :
    detectTurn cfg S d = .ok (turnEnd cfg S d) () := by
  have hskip (d' : DemRegs) (hn : d'.wn = (measureWindow cfg S d).wn) (hs : d'.wsum = (measureWindow cfg S d).wsum)
      (hp : d'.wspan = (measureWindow cfg S d).wspan) :
      lowSkip cfg d' (S.drop (d.idx + turnRun cfg S d)) = turnSkip cfg S d := lowSkip_congr hn hs hp _
  rw [detectTurn, scanHigh_of_not_cut h, Res.bind_ok]
  simp only [skipLow, hskip]
  simp only [forceProgress, turnEnd, measureWindow_anchor]
  by_cases hstay : turnRun cfg S d = 0 ∧ turnSkip cfg S d = 0
  · rw [if_pos (by omega), if_pos hstay]
    simp [hstay]
  · rw [if_neg (by omega), if_neg hstay]

/-- A turn that goes on was not cut, and has ended as `turnEnd` says. -/
theorem detectTurn_eq_ok {d' : DemRegs} (h : detectTurn cfg S d = .ok d' ()) : d' = turnEnd cfg S d := by
  by_cases hcut : 0 < turnRun cfg S d ∧ d.idx + turnRun cfg S d = S.length
  · obtain ⟨r, hr⟩ := detectTurn_of_cut hcut.1 hcut.2
    cases hr.symm.trans h
  · cases (detectTurn_of_not_cut hcut).symm.trans h
    rfl

theorem turnEnd_idx_bounds (hidx : d.idx < S.length) :
    d.idx < (turnEnd cfg S d).idx ∧ (turnEnd cfg S d).idx ≤ S.length := by
  have hrun : turnRun cfg S d ≤ (S.drop d.idx).length := highRun_le _ _ _
  have hskip : turnSkip cfg S d ≤ (S.drop (d.idx + turnRun cfg S d)).length := lowSkip_le _ _ _
  rw [List.length_drop] at hrun hskip
  simp only [turnEnd]
  split <;> omega

end Turn

/-! ### The chain of turns (R135) -/

section Chain
variable {cfg : Config} {S : List Sample}

/-- Run detection from `d` with as many turns as samples are left: its turns lead to one that is cut, or to the end of
the buffer. -/
theorem detectRuns_turns {d₀ : DemRegs} (n : Nat) (d : DemRegs) (hturns : Spec.Turns cfg S d₀ d)
    (hidx : d.idx ≤ S.length) (hn : S.length ≤ d.idx + n) :
    ∃ e, Spec.Turns cfg S d₀ e ∧
      ((Spec.CutRun cfg S e ∧ ∃ r, detectRuns cfg S n d = .raise r .truncatedInputError e.idx) ∨
        (e.idx = S.length ∧ detectRuns cfg S n d = .ok e ())) := by
  induction n generalizing d with
  | zero => exact ⟨d, hturns, .inr ⟨by omega, rfl⟩⟩
  | succ n ih =>
    by_cases hlt : d.idx < S.length
    · rw [detectRuns, if_pos hlt]
      by_cases hcut : 0 < turnRun cfg S d ∧ d.idx + turnRun cfg S d = S.length
      · obtain ⟨r, hr⟩ := detectTurn_of_cut hcut.1 hcut.2
        exact ⟨d, hturns, .inl ⟨⟨hlt, hcut⟩, r, by rw [hr, Res.bind_raise]⟩⟩
      · have hturn := detectTurn_of_not_cut hcut
        obtain ⟨hadvance, hle⟩ := turnEnd_idx_bounds (cfg := cfg) hlt
        rw [hturn, Res.bind_ok]
        exact ih _ (hturns.next hlt hturn) hle (by omega)
    · exact ⟨d, hturns, .inr ⟨by omega, detectRuns_of_length_le cfg (Nat.not_lt.mp hlt) _⟩⟩

/-- What every turn keeps holds of all registers that turns lead to. -/
theorem Turns.keep {P : DemRegs → Prop} {d d' : DemRegs} (h : Spec.Turns cfg S d d') (hd : P d)
    (hturn : ∀ e, P e → P (turnEnd cfg S e)) : P d' := by
  induction h with
  | none => exact hd
  | next _ _ hstep ih => exact detectTurn_eq_ok hstep ▸ hturn _ ih

end Chain

/-! ### Byte assembly (R145 to R148) -/

theorem length_packBytes (n : Nat) (bits : List Bool) : (packBytes n bits).length = n := by
  induction n generalizing bits with
  | zero => rfl
  | succ n ih => rw [packBytes, List.length_cons, ih]

/-- Bit `k` of byte `g` is the bit of that number in encounter order. -/
theorem packBytes_getLsbD {n : Nat} {bits : List Bool} (hn : 8 * n ≤ bits.length) {g k : Nat} (hg : g < n)
    (hk : k < 8) :
    ((packBytes n bits)[g]?).map (fun b => b.getLsbD k) = bits[8 * g + k]? := by
  induction n generalizing bits g with
  | zero => cases hg
  | succ n ih =>
    cases g with
    | zero =>
      have hlt : k < (bits.take 8).length := by rw [List.length_take]; omega
      rw [packBytes, List.getElem?_cons_zero, Option.map_some, packByte_getLsbD _ hk,
        List.getD_eq_getElem _ _ hlt, List.getElem_take, ← List.getElem?_eq_getElem]
      simp
    | succ g =>
      rw [packBytes, List.getElem?_cons_succ, ih (by rw [List.length_drop]; omega) (Nat.lt_of_succ_lt_succ hg),
        List.getElem?_drop]
      congr 1
      omega

/-! ### DEMOD on every buffer -/

/-- The registers after classification (R144). -/
def classified (d : DemRegs) : DemRegs :=
  let rsum := (d.runs.map CycleRun.lengthInSamples).sum
  { d with
    rsum := rsum
    bits := d.runs.map fun r => decide (r.lengthInSamples * d.runs.length < rsum)
    runs := d.runs.map fun r =>
      { r with classifiedBit := if r.lengthInSamples * d.runs.length < rsum then RunBit.one else RunBit.zero } }

theorem classify_of_pos {d : DemRegs} (h : 0 < d.runs.length) : classify d = .ok (classified d) () := by
  have hclass (r : CycleRun) : classifyRun d r.lengthInSamples =
      decide (r.lengthInSamples * d.runs.length < (d.runs.map CycleRun.lengthInSamples).sum) := rfl
  rw [classify, if_neg h.ne']
  simp only [classified, runLengths, List.map_map, Function.comp_def, hclass, decide_eq_true_eq]

theorem length_classified_bits (d : DemRegs) : (classified d).bits.length = d.runs.length := List.length_map _

/-- What `demodulate` does with the runs found. -/
theorem demodEnds_of_detectRuns {s : State} {S : List Sample} {d : DemRegs}
    (h : detectRuns s.cfg S S.length (Spec.demStart s.work.dem) = .ok d ()) :
    Spec.DemodEnds (exec (.demod S) s) s d := by
  have hdem : demodulate s.cfg s.work.dem S = (classify d).bind fun d _ => assembleBytes s.cfg d := by
    rw [demodulate, ← Spec.demStart, h, Res.bind_ok]
  rw [exec_demod, hdem]
  refine ⟨fun hzero => ?_, fun hpos => ?_⟩
  · have hclassify : classify d = .raise d .noSignalError 0 := if_pos hzero
    rw [hclassify, Res.bind_raise]
    exact s.conclude_raise_fails _ _ _ _ _
  · have hlen := length_classified_bits d
    rw [classify_of_pos hpos, Res.bind_ok, assembleBytes_eq, hlen]
    exact ⟨_, _, length_packBytes _ _, rfl,
      fun g k hg hk => packBytes_getLsbD (bits := (classified d).bits) (by rw [hlen]; omega) hg hk,
      s.conclude_ok_delivers _ _ _ _⟩

theorem demod_fails_of_detectRuns {s : State} {S : List Sample} {d : DemRegs} {n : Nat}
    (h : detectRuns s.cfg S S.length (Spec.demStart s.work.dem) = .raise d .truncatedInputError n) :
    Spec.Fails (exec (.demod S) s) s .truncatedInputError n := by
  rw [exec_demod, demodulate, ← Spec.demStart, h, Res.bind_raise]
  exact s.conclude_raise_fails _ _ _ _ _

/-- The whole of `DEMOD`: its turns lead to one that is cut, or to the end of the buffer. -/
theorem demod_turns (s : State) (S : List Sample) : ∃ d, Spec.Turns s.cfg S (Spec.demStart s.work.dem) d ∧
    ((Spec.CutRun s.cfg S d ∧ Spec.Fails (exec (.demod S) s) s .truncatedInputError d.idx) ∨
      (d.idx = S.length ∧ Spec.DemodEnds (exec (.demod S) s) s d)) := by
  obtain ⟨d, hturns, ⟨hcut, r, hr⟩ | ⟨hend, hok⟩⟩ := detectRuns_turns (cfg := s.cfg) S.length
    (Spec.demStart s.work.dem) .none (Nat.zero_le _) (Nat.le_add_left _ _)
  · exact ⟨d, hturns, .inl ⟨hcut, demod_fails_of_detectRuns hr⟩⟩
  · exact ⟨d, hturns, .inr ⟨hend, demodEnds_of_detectRuns hok⟩⟩

/-- The end of the buffer leads to `NoSignalError` or to a result. -/
theorem demodEnds_cases {o : Host.Outcome State Fault Refusal} {s : State} {d : DemRegs}
    (h : Spec.DemodEnds o s d) :
    (d.runs = [] ∧ Spec.Fails o s .noSignalError 0) ∨ (0 < d.runs.length ∧ ∃ t, o = .next t ∧ t.err = 0) := by
  rcases Nat.eq_zero_or_pos d.runs.length with hzero | hpos
  · exact .inl ⟨List.eq_nil_of_length_eq_zero hzero, h.1 hzero⟩
  · obtain ⟨bs, residual, -, -, -, t, ht, herr, -⟩ := h.2 hpos
    exact .inr ⟨hpos, t, ht, herr⟩

/-- Settles O48: a turn by whether it is cut, and `DEMOD` by its chain of turns. -/
theorem turnBookkeeping : Obligations.TurnBookkeeping := by
  refine ⟨fun cfg S d => ⟨fun hcut => detectTurn_of_cut hcut.1 hcut.2, fun hcut => detectTurn_of_not_cut hcut⟩,
    fun s t S hexec herr => ?_, demod_turns⟩
  obtain ⟨d, hturns, ⟨hcut, u, hu, -, hinfo, -⟩ | ⟨-, hends⟩⟩ := demod_turns s S
  · cases hexec.symm.trans hu
    exact ⟨d, hturns, hinfo.symm, hcut⟩
  · obtain ⟨-, u, hu, huerr, -⟩ | ⟨-, u, hu, huerr⟩ := demodEnds_cases hends
    · cases hexec.symm.trans hu
      exact absurd (herr.symm.trans huerr) (by decide)
    · cases hexec.symm.trans hu
      exact absurd (herr.symm.trans huerr) (by decide)

/-- Where `DEMOD` delivers, its turns have led to the end of the buffer, and it has classified their runs. -/
theorem demod_delivers {s t : State} {S : List Sample} (hexec : exec (.demod S) s = .next t) (herr : t.err = 0) :
    ∃ d, Spec.Turns s.cfg S (Spec.demStart s.work.dem) d ∧ d.idx = S.length ∧ 0 < d.runs.length ∧
      Spec.DemodEnds (.next t) s d := by
  obtain ⟨d, hturns, ⟨-, u, hu, huerr, -⟩ | ⟨hend, hends⟩⟩ := demod_turns s S
  · cases hexec.symm.trans hu
    exact absurd (huerr.symm.trans herr) (by decide)
  · rw [hexec] at hends
    obtain ⟨-, u, hu, huerr, -⟩ | ⟨hpos, -⟩ := demodEnds_cases hends
    · cases hu
      exact absurd (huerr.symm.trans herr) (by decide)
    · exact ⟨d, hturns, hend, hpos, hends⟩

/-- Settles O49: a turn by its end, and `DEMOD` by where its chain of turns leads. -/
theorem detectionAdvances : Obligations.DetectionAdvances := by
  refine ⟨fun cfg S d d' hidx hturn => detectTurn_eq_ok hturn ▸ turnEnd_idx_bounds hidx, fun s S => ?_⟩
  have hnext : ∃ t, exec (.demod S) s = .next t := by
    obtain ⟨d, -, ⟨-, t, ht, -⟩ | ⟨-, hends⟩⟩ := demod_turns s S
    · exact ⟨t, ht⟩
    · obtain ⟨-, t, ht, -⟩ | ⟨-, t, ht, -⟩ := demodEnds_cases hends <;> exact ⟨t, ht⟩
  obtain ⟨t, ht⟩ := hnext
  refine ⟨t, ht, fun herr => ?_⟩
  obtain ⟨d, -, hend, hpos, hends⟩ := demod_delivers ht herr
  obtain ⟨bs, residual, -, -, -, u, hu, -, -, hwork, -⟩ := hends.2 hpos
  cases hu
  rw [hwork]
  exact hend

/-- No turn records a run of length 0 (R137). -/
theorem runs_pos_of_turns {cfg : Config} {S : List Sample} {d₀ d : DemRegs} (h : Spec.Turns cfg S d₀ d)
    (h₀ : d₀.runs = []) : ∀ r ∈ d.runs, 1 ≤ r.lengthInSamples := by
  refine Turns.keep (P := fun d => ∀ r ∈ d.runs, 1 ≤ r.lengthInSamples) h (by simp [h₀]) fun e he r hr => ?_
  simp only [turnEnd] at hr
  split at hr
  · exact he r hr
  · rcases List.mem_append.mp hr with hr | hr
    · exact he r hr
    · rw [List.mem_singleton.mp hr]
      exact Nat.pos_of_ne_zero ‹_›

/-- Settles O50, from the end of the chain of turns. -/
theorem demodResultShape : Obligations.DemodResultShape := by
  intro s t S hexec herr
  obtain ⟨d, hturns, -, hpos, hends⟩ := demod_delivers hexec herr
  obtain ⟨bs, residual, hlen, hres, hbit, u, hu, -, hresult, hwork, -⟩ := hends.2 hpos
  cases hu
  refine ⟨bs, residual, hresult, ?_⟩
  have hruns := runs_pos_of_turns hturns rfl
  simp only [hwork, List.map_map, List.length_map, Function.comp_def]
  refine ⟨hpos, fun l hl => ?_, trivial, trivial, ?_, hlen, hres, trivial, hbit⟩
  · obtain ⟨r, hr, rfl⟩ := List.mem_map.mp hl
    exact hruns r hr
  · simp only [decide_eq_true_eq]

/-! ### Buffers without a signal (R141, R143) -/

theorem highRun_of_none_above {cfg : Config} {d : DemRegs} {rest : List Sample}
    (h : ∀ v ∈ rest, aboveMean d v = false) : highRun cfg d rest = 0 := by
  cases rest with
  | nil => rfl
  | cons v rest =>
    refine highRun_cons_of_not_any cfg d fun hany => ?_
    obtain ⟨j, -, w, hget, hw⟩ := (anyAboveMean_iff cfg d _).mp hany
    rw [h w (List.mem_of_getElem? hget)] at hw
    cases hw

/-- Where no sample is ever above the mean, no turn records a run, and none is cut. -/
theorem demod_noSignal {s : State} {S : List Sample}
    (h : ∀ d, ∀ v ∈ S, aboveMean (measureWindow s.cfg S d) v = false) :
    Spec.Fails (exec (.demod S) s) s .noSignalError 0 := by
  have hrun (d : DemRegs) : turnRun s.cfg S d = 0 :=
    highRun_of_none_above fun v hv => h d v (List.mem_of_mem_drop hv)
  obtain ⟨d, hturns, ⟨⟨-, hpos, -⟩, -⟩ | ⟨-, hends⟩⟩ := demod_turns s S
  · exact absurd (hrun d) hpos.ne'
  · have hruns : d.runs = [] := Turns.keep (P := fun d => d.runs = []) hturns rfl fun e he => by
      simp only [turnEnd, if_pos (hrun e), he]
    exact hends.1 (by rw [hruns]; rfl)

/-- The sum of a constant window is its value as often as it has samples: no sample of that value is above its mean. -/
theorem aboveMean_replicate (cfg : Config) (n : Nat) (v : Int) (d : DemRegs) :
    aboveMean (measureWindow cfg (List.replicate n v) d) v = false := by
  refine Bool.eq_false_of_not_eq_true fun habove => ?_
  rw [aboveMean_iff, measureWindow_wsum, measureWindow_wn] at habove
  have hconst : windowSamples cfg (List.replicate n v) d =
      List.replicate (windowSamples cfg (List.replicate n v) d).length v :=
    List.eq_replicate_of_mem fun x hx => List.eq_of_mem_replicate (List.mem_of_mem_drop (List.mem_of_mem_take hx))
  rw [hconst, List.sum_replicate, List.length_replicate, nsmul_eq_mul, mul_comm] at habove
  exact lt_irrefl _ habove

/-- A window of no samples has the sum 0 and the count 0, and nothing is above their quotient (R134 multiplied out). -/
theorem aboveMean_of_no_window {cfg : Config} (h : cfg.sampleRate < cfg.freqOne) (S : List Sample) (d : DemRegs)
    (v : Int) : aboveMean (measureWindow cfg S d) v = false := by
  have hzero : windowLen cfg = 0 := Nat.eq_zero_of_not_pos fun hpos =>
    absurd ((Config.windowLen_pos_iff cfg).mp hpos) (Nat.not_le.mpr h)
  have hwn : (measureWindow cfg S d).wn = 0 := by
    simp only [measureWindow, hzero]
    omega
  have hempty : windowSamples cfg S d = [] :=
    List.eq_nil_of_length_eq_zero ((measureWindow_wn cfg S d).symm.trans hwn)
  refine Bool.eq_false_of_not_eq_true fun habove => ?_
  rw [aboveMean_iff, measureWindow_wsum, hwn, hempty] at habove
  simp at habove

/-- Settles O51. -/
theorem constantBufferHasNoSignal : Obligations.ConstantBufferHasNoSignal := by
  refine ⟨fun s n v => demod_noSignal fun d x hx => ?_,
    fun s S hfreq => demod_noSignal fun d v _ => aboveMean_of_no_window hfreq S d v⟩
  rw [List.eq_of_mem_replicate hx]
  exact aboveMean_replicate s.cfg n v d

end Sys2Proof.Machine

/-! Demodulator DEM on the modulator's output at the default configuration (spec/43_fsk_demodulator.md section 7): a cut
high half, one run per cycle, the gap, and the obligations O52, O53 and O55. -/

namespace Sys2Proof.Machine

/-! ### The window after some whole cycles -/

/-- Where at least a window of whole cycles has been scanned, the window is their end. -/
theorem windowSamples_after (a b : Addr) {S tail : List Sample} {d : DemRegs} {done : List Bool}
    (hS : S.drop d.anchor = cells done ++ tail) (hidx : d.idx = d.anchor + (cells done).length)
    (hlen : 60 ≤ (cells done).length) :
    windowSamples (Config.defaultWith a b) S d = (cells done).drop ((cells done).length - 60) := by
  rw [windowSamples_eq _ S (by omega), hS, windowLen_default, hidx, Nat.add_sub_cancel_left,
    List.drop_append_of_le_length (by omega), List.take_left' (by rw [List.length_drop]; omega)]

/-- Every cycle has at least 20 samples. -/
theorem length_le_length_cells (bits : List Bool) : 20 * bits.length ≤ (cells bits).length := by
  have hlen := length_cells bits
  have hcount := bits.count_le_length (a := true)
  omega

/-- Settles O53: `demodulate_cells` says which runs there are and that the anchor is where it was. -/
theorem oneRunPerCycle : Obligations.OneRunPerCycle := by
  intro a b s bytes hcfg hne
  have hbits : bytes.flatMap Spec.bitsOf ≠ [] := by
    have hlen := length_flatMap_bitsOf bytes
    have hpos := List.length_pos_iff.mpr hne
    exact List.ne_nil_of_length_pos (by omega)
  obtain ⟨d, hdem, hanchor, hruns⟩ := demodulate_cells a b s.work.dem hbits
  rw [exec_demod, hcfg, stream_default, hdem]
  exact ⟨_, rfl, s.deliver_err _ _, hanchor, hruns⟩

/-! ### A cut high half (R138) -/

/-- After some whole cycles the turn on further high samples takes all of them, up to the end of the buffer. -/
theorem turnRun_after_cells (a b : Addr) {bits : List Bool} {d : DemRegs} (n : Nat) (hanchor : d.anchor = 0)
    (hidx : d.idx = (cells bits).length) (hlen : 60 ≤ (cells bits).length) :
    turnRun (Config.defaultWith a b) (cells bits ++ List.replicate n 8000) d = n := by
  have hS : (cells bits ++ List.replicate n (8000 : Int)).drop d.anchor = cells bits ++ List.replicate n 8000 := by
    rw [hanchor, List.drop_zero]
  have hdrop : (cells bits ++ List.replicate n (8000 : Int)).drop d.idx = List.replicate n 8000 ++ [] := by
    rw [hidx, List.drop_left, List.append_nil]
  have hbalanced : Balanced (windowSamples (Config.defaultWith a b) (cells bits ++ List.replicate n 8000) d) := by
    rw [windowSamples_after a b hS (by omega) hlen]
    exact balanced_drop_cells hlen
  rw [turnRun, hdrop, highRun_replicate_append hbalanced.separates.hi_above, highRun, Nat.add_zero]

/-- Settles O52: the turn after the last whole cycle is cut, by what is left of the buffer. -/
theorem cutHighHalfIsTruncated : Obligations.CutHighHalfIsTruncated := by
  intro a b s bytes n hcfg hne hn
  have hcount := length_flatMap_bitsOf bytes
  have hpos := List.length_pos_iff.mpr hne
  rw [hcfg, stream_default]
  set bits := bytes.flatMap Spec.bitsOf
  have hcells := length_le_length_cells bits
  have hlength : (cells bits ++ List.replicate n (8000 : Int)).length = (cells bits).length + n := by
    rw [List.length_append, List.length_replicate]
  have hhead : (List.replicate n (8000 : Int)).head? = some 8000 := by
    rw [List.head?_replicate, if_neg (by omega)]
  obtain ⟨d, hdetect, hanchor, hidx, -⟩ := detectRuns_cells a b (S := cells bits ++ List.replicate n 8000)
    (d := Spec.demStart s.work.dem) (done := []) (todo := bits) rfl rfl (.inr ⟨by rw [List.nil_append]; omega, hhead⟩)
    ((cells bits).length + n - 1 - bits.length + 1)
  have hidx' : d.idx = (cells bits).length := hidx.trans (Nat.zero_add _)
  have hrun := turnRun_after_cells a b n hanchor hidx' (by omega)
  obtain ⟨r, hr⟩ := detectTurn_of_cut (by rw [hrun]; exact hn) (by rw [hrun, hidx', hlength])
  have hfuel : (cells bits).length + n - 1 - bits.length + 1 + bits.length = (cells bits).length + n := by omega
  rw [hfuel, ← hlength, detectRuns, if_pos (by omega), hr, Res.bind_raise, hidx'] at hdetect
  exact demod_fails_of_detectRuns (hcfg ▸ hdetect)

/-! ### The end of a part (R157) -/

/-- The window of the turn that begins after some cycles, the last three of which are those of `x`, `y`, `z`. -/
def lastWindow (x y z : Bool) : List Int := (cells [x, y, z]).drop ((cells [x, y, z]).length - 60)

theorem lastWindow_eq (bits : List Bool) (x y z : Bool) :
    (cells (bits ++ [x, y, z])).drop ((cells (bits ++ [x, y, z])).length - 60) = lastWindow x y z := by
  have hlen := length_le_length_cells [x, y, z]
  simp only [List.length_cons, List.length_nil] at hlen
  rw [cells_append, List.length_append, Nat.add_sub_assoc (by omega), List.drop_length_add_append, lastWindow]

/-- A window's end is a cycle, which has both levels. -/
theorem levels_mem_lastWindow : ∀ x y z, (8000 : Int) ∈ lastWindow x y z ∧ (-8000 : Int) ∈ lastWindow x y z := by
  decide

/-- The end of a stream lacks at most 20 high samples. Where one of the last three cycles is short, the window before
the last of them lacks fewer, or the one after it lacks none. -/
theorem sum_lastWindow : ∀ w x y z, (x || y || z) = true →
    -160000 < (lastWindow w x y).sum ∨ 0 ≤ (lastWindow x y z).sum := by
  decide

/-- The turn at `d` begins right after some cycles, the last three of which are those of `x`, `y`, `z`: its window is
their end, and separates the levels. -/
structure AfterCells (a b : Addr) (S : List Sample) (d : DemRegs) (x y z : Bool) : Prop where
  window : windowSamples (Config.defaultWith a b) S d = lastWindow x y z
  balanced : Balanced (windowSamples (Config.defaultWith a b) S d)

theorem afterCells (a b : Addr) {S tail : List Sample} {d : DemRegs} {bits : List Bool} {x y z : Bool}
    (hS : S.drop d.anchor = cells (bits ++ [x, y, z]) ++ tail)
    (hidx : d.idx = d.anchor + (cells (bits ++ [x, y, z])).length) : AfterCells a b S d x y z := by
  have hlen := length_le_length_cells (bits ++ [x, y, z])
  rw [List.length_append, List.length_cons, List.length_cons, List.length_cons] at hlen
  have hwindow := windowSamples_after a b hS hidx (by omega)
  exact ⟨by rw [hwindow, lastWindow_eq], by rw [hwindow]; exact balanced_drop_cells (by omega)⟩

section AfterCells
variable {a b : Addr} {S : List Sample} {d : DemRegs} {x y z : Bool} (h : AfterCells a b S d x y z)
include h

theorem AfterCells.wsum : (measureWindow (Config.defaultWith a b) S d).wsum = (lastWindow x y z).sum := by
  rw [measureWindow_wsum, h.window]

theorem AfterCells.wn : (measureWindow (Config.defaultWith a b) S d).wn = 60 := by
  have hlen := length_le_length_cells [x, y, z]
  simp only [List.length_cons, List.length_nil] at hlen
  rw [measureWindow_wn, h.window, lastWindow, List.length_drop]
  omega

theorem AfterCells.wspan : 16000 ≤ (measureWindow (Config.defaultWith a b) S d).wspan := by
  obtain ⟨hhigh, hlow⟩ := levels_mem_lastWindow x y z
  have hspan : (8000 : Int) - -8000 ≤ windowSpan S d.idx (lastWindow x y z) := sub_le_windowSpan S d.idx hhigh hlow
  rw [measureWindow_wspan, h.window]
  omega

/-- Silence is below the trigger where the window lacks fewer than 20 high samples. -/
theorem AfterCells.zero_below (hsum : -160000 < (lastWindow x y z).sum) :
    belowTrigger (Config.defaultWith a b) (measureWindow (Config.defaultWith a b) S d) 0 = true := by
  have hspan := h.wspan
  rw [belowTrigger_iff, Config.defaultWith_triggerDiv, h.wn, h.wsum]
  omega

/-- Silence is not above the mean where the window lacks none. -/
theorem AfterCells.zero_not_above (hsum : 0 ≤ (lastWindow x y z).sum) :
    aboveMean (measureWindow (Config.defaultWith a b) S d) 0 = false := by
  refine Bool.eq_false_of_not_eq_true fun habove => ?_
  rw [aboveMean_iff, h.wsum] at habove
  omega

end AfterCells

/-! ### Crossing the gap (R140, R157) -/

/-- What follows a gap: nothing, or a high sample. -/
def StartsHigh (tail : List Sample) : Prop := ∀ v, tail.head? = some v → v = 8000

theorem startsHigh_cells (bits : List Bool) : StartsHigh (cells bits) := by
  intro v hv
  cases bits with
  | nil => cases hv
  | cons bit bits => cases bit <;> exact (Option.some.inj hv).symm

section Gap
variable {a b : Addr} {S tail : List Sample} {d : DemRegs} {bits : List Bool} {w x y z : Bool} {gap : Nat}

/-- A turn that begins on silence not above the mean records no run, skips the silence and moves the anchor past it. -/
theorem detectTurn_silence (hS : S.drop d.idx = List.replicate gap 0 ++ tail) (hgap : 60 < gap)
    (htail : StartsHigh tail) (hafter : AfterCells a b S d x y z) (hsum : 0 ≤ (lastWindow x y z).sum) :
    ∃ d', detectTurn (Config.defaultWith a b) S d = .ok d' () ∧ d'.idx = d.idx + gap ∧ d'.anchor = d.idx + gap ∧
      d'.runs = d.runs := by
  have hrun : turnRun (Config.defaultWith a b) S d = 0 := by
    rw [turnRun, hS]
    exact highRun_eq_zero_of_low (hafter.zero_not_above hsum) (by rw [Config.defaultWith_lookahead]; omega) tail
  have hskip : turnSkip (Config.defaultWith a b) S d = gap := by
    rw [turnSkip, hrun, Nat.add_zero, hS, lowSkip_replicate_append (hafter.zero_below (by omega)),
      lowSkip_eq_zero_of_head fun v hv => htail v hv ▸ hafter.balanced.separates.hi_not_below, Nat.add_zero]
  have hwindow := windowLen_default a b
  refine ⟨_, detectTurn_of_not_cut fun hcut => absurd hrun hcut.1.ne', ?_, ?_, ?_⟩
  · simp only [turnEnd, hrun, hskip]
    rw [if_neg (by omega), Nat.add_zero]
  · simp only [turnEnd, hrun, hskip]
    rw [if_pos (by omega), Nat.add_zero]
  · simp only [turnEnd, if_pos hrun]

/-- The turn on the last cycle before a gap records its run. It skips the silence too and moves the anchor past it, or
it stops where the gap begins, because silence is not below its trigger. -/
theorem detectTurn_before_gap
    (hS : S.drop d.anchor = cells (bits ++ [w, x, y] ++ [z]) ++ (List.replicate gap 0 ++ tail))
    (hidx : d.idx = d.anchor + (cells (bits ++ [w, x, y])).length) (hgap : 60 < gap) (htail : StartsHigh tail) :
    ∃ d', detectTurn (Config.defaultWith a b) S d = .ok d' () ∧ d'.runs = d.runs ++ [bitRun z] ∧
      ((d'.idx = d.anchor + (cells (bits ++ [w, x, y] ++ [z])).length + gap ∧ d'.anchor = d'.idx) ∨
        (d'.idx = d.anchor + (cells (bits ++ [w, x, y] ++ [z])).length ∧ d'.anchor = d.anchor ∧
          ¬ -160000 < (lastWindow w x y).sum)) := by
  have hafter : AfterCells a b S d w x y :=
    afterCells a b (tail := cells [z] ++ (List.replicate gap 0 ++ tail))
      (by rw [hS, cells_append, List.append_assoc]) hidx
  have hdrop : S.drop d.idx = List.replicate (halfCycle z) 8000 ++
      (List.replicate (halfCycle z) (-8000) ++ (List.replicate gap 0 ++ tail)) := by
    rw [hidx, ← List.drop_drop, hS, cells_append _ [z], List.append_assoc, List.drop_left, cells_cons, cells_nil,
      List.append_nil, List.append_assoc]
  obtain ⟨hlow, hhigh⟩ := halfCycle_bounds z
  have hturn := detectTurn_run hdrop (by omega) (by rw [Config.defaultWith_lookahead]; omega)
    hafter.balanced.separates
  have hlen := length_cells_snoc (bits ++ [w, x, y]) z
  refine ⟨_, hturn, rfl, ?_⟩
  cases hzero : belowTrigger (Config.defaultWith a b) (measureWindow (Config.defaultWith a b) S d) 0 with
  | true =>
    have hskip : lowSkip (Config.defaultWith a b) (measureWindow (Config.defaultWith a b) S d)
        (List.replicate gap 0 ++ tail) = gap := by
      rw [lowSkip_replicate_append hzero,
        lowSkip_eq_zero_of_head fun v hv => htail v hv ▸ hafter.balanced.separates.hi_not_below, Nat.add_zero]
    simp only [hskip, windowLen_default]
    exact .inl ⟨by omega, if_pos (by omega)⟩
  | false =>
    have hskip : lowSkip (Config.defaultWith a b) (measureWindow (Config.defaultWith a b) S d)
        (List.replicate gap 0 ++ tail) = 0 := by
      refine lowSkip_eq_zero_of_head fun v hv => ?_
      rw [List.head?_append, List.head?_replicate, if_neg (by omega)] at hv
      cases hv
      exact hzero
    simp only [hskip, windowLen_default]
    refine .inr ⟨by omega, if_neg (by omega), fun hsum => ?_⟩
    rw [hafter.zero_below hsum] at hzero
    cases hzero

/-- From the last cycle before a gap run detection crosses it in one or two turns: only that cycle's run is recorded,
and the anchor comes to lie at what follows. -/
theorem detectRuns_gap (hS : S.drop d.anchor = cells (bits ++ [w, x, y] ++ [z]) ++ (List.replicate gap 0 ++ tail))
    (hidx : d.idx = d.anchor + (cells (bits ++ [w, x, y])).length) (hgap : 60 < gap) (htail : StartsHigh tail)
    (hshort : (x || y || z) = true) :
    ∃ k d', k ≤ 2 ∧
      (∀ n, detectRuns (Config.defaultWith a b) S (n + k) d = detectRuns (Config.defaultWith a b) S n d') ∧
      d'.runs = d.runs ++ [bitRun z] ∧ d'.idx = d.anchor + (cells (bits ++ [w, x, y] ++ [z])).length + gap ∧
      d'.anchor = d'.idx := by
  have hlength := congrArg List.length hS
  simp only [List.length_drop, List.length_append, List.length_replicate] at hlength
  have hbits := cells_append (bits ++ [w, x, y]) [z]
  have hcells := congrArg List.length hbits
  rw [List.length_append] at hcells
  obtain ⟨d₁, hturn, hruns, ⟨hidx₁, hanchor₁⟩ | ⟨hidx₁, hanchor₁, hsum⟩⟩ :=
    detectTurn_before_gap (a := a) (b := b) hS hidx hgap htail
  · exact ⟨1, d₁, by omega, fun n => by rw [detectRuns, if_pos (by omega), hturn, Res.bind_ok], hruns, hidx₁, hanchor₁⟩
  · have hassoc : bits ++ [w, x, y] ++ [z] = (bits ++ [w]) ++ [x, y, z] := by simp
    have hafter : AfterCells a b S d₁ x y z :=
      afterCells a b (bits := bits ++ [w]) (by rw [hanchor₁, hS, hassoc]) (by rw [hidx₁, hanchor₁, hassoc])
    have hdrop : S.drop d₁.idx = List.replicate gap 0 ++ tail := by
      rw [hidx₁, ← List.drop_drop, hS, List.drop_left]
    obtain ⟨d₂, hturn₂, hidx₂, hanchor₂, hruns₂⟩ :=
      detectTurn_silence hdrop hgap htail hafter ((sum_lastWindow w x y z hshort).resolve_left hsum)
    refine ⟨2, d₂, le_rfl, fun n => ?_, by rw [hruns₂, hruns], by rw [hidx₂, hidx₁], by rw [hanchor₂, hidx₂]⟩
    rw [detectRuns, if_pos (by omega), hturn, Res.bind_ok, detectRuns, if_pos (by omega), hturn₂, Res.bind_ok]

end Gap

/-- Two parts with a gap between them: one run per cycle of either, where one of the last three cycles of the first part
is short. -/
theorem detectRuns_two_parts (a b : Addr) (d : DemRegs) {bits : List Bool} {w x y z : Bool} (bits₂ : List Bool)
    {gap : Nat} (hgap : 60 < gap) (hshort : (x || y || z) = true) {S : List Sample}
    (hS : S = cells (bits ++ [w, x, y] ++ [z]) ++ (List.replicate gap 0 ++ cells bits₂)) :
    ∃ d', detectRuns (Config.defaultWith a b) S S.length (Spec.demStart d) = .ok d' () ∧
      d'.runs = (bits ++ [w, x, y] ++ [z] ++ bits₂).map bitRun := by
  have hlen₁ := length_le_length_cells (bits ++ [w, x, y])
  have hlen₂ := length_le_length_cells bits₂
  have hz := length_cells_snoc (bits ++ [w, x, y]) z
  have hlength : S.length = (cells (bits ++ [w, x, y] ++ [z])).length + (gap + (cells bits₂).length) := by
    rw [hS, List.length_append, List.length_append, List.length_replicate]
  have hfront : S.drop (Spec.demStart d).anchor =
      cells ([] ++ (bits ++ [w, x, y])) ++ (cells [z] ++ (List.replicate gap 0 ++ cells bits₂)) := by
    rw [hS, cells_append _ [z], List.append_assoc]
    rfl
  have hhead : (cells [z] ++ (List.replicate gap (0 : Int) ++ cells bits₂)).head? = some 8000 := by cases z <;> rfl
  obtain ⟨m, hm⟩ : ∃ m, S.length = m + bits₂.length + 2 + (bits ++ [w, x, y]).length :=
    ⟨S.length - (bits₂.length + 2 + (bits ++ [w, x, y]).length), by omega⟩
  have hcount : (bits ++ [w, x, y]).length = bits.length + 3 := List.length_append
  obtain ⟨d₁, hdetect₁, hanchor₁, hidx₁, hruns₁⟩ := detectRuns_cells a b hfront rfl
    (.inr ⟨by rw [List.nil_append]; omega, hhead⟩) (m + bits₂.length + 2)
  have hstart : (Spec.demStart d).anchor = 0 := rfl
  rw [hstart] at hidx₁ hanchor₁
  rw [List.nil_append] at hidx₁
  have hmiddle : S.drop d₁.anchor = cells (bits ++ [w, x, y] ++ [z]) ++ (List.replicate gap 0 ++ cells bits₂) := by
    rw [hanchor₁, List.drop_zero]
    exact hS
  obtain ⟨k, d₂, hk, hdetect₂, hruns₂, hidx₂, hanchor₂⟩ := detectRuns_gap (a := a) (b := b) hmiddle
    (by rw [hanchor₁, hidx₁]) hgap (startsHigh_cells bits₂) hshort
  rw [hanchor₁, Nat.zero_add] at hidx₂
  have hback : S.drop d₂.anchor = cells ([] ++ bits₂) ++ [] := by
    rw [hanchor₂, hidx₂, ← List.drop_drop, hS, List.drop_left, List.drop_left' List.length_replicate, List.nil_append,
      List.append_nil]
  obtain ⟨d₃, hdetect₃, -, hidx₃, hruns₃⟩ := detectRuns_cells a b hback
    (by rw [hanchor₂, cells_nil, List.length_nil, Nat.add_zero]) (.inl rfl) (m + (2 - k))
  have hend : S.length ≤ d₃.idx := by
    rw [hidx₃, hanchor₂, hidx₂, List.nil_append]
    omega
  have hfuel : m + bits₂.length + 2 = m + (2 - k) + bits₂.length + k := by omega
  refine ⟨d₃, ?_, ?_⟩
  · rw [hm, hdetect₁, hfuel, hdetect₂, hdetect₃, detectRuns_of_length_le _ hend]
  · rw [hruns₃, hruns₂, hruns₁]
    simp [Spec.demStart]

/-! ### Classification and assembly of the runs of some bits -/

theorem classified_bits_of_runs {d : DemRegs} {bits : List Bool} (h : d.runs = bits.map bitRun) :
    (classified d).bits = classifiedBits bits := by
  simp only [classified, classifiedBits, h, List.map_map, List.length_map]
  rfl

/-- Where run detection finds the runs of the bits of some bytes, one of which is not 0xFF, `DEMOD` delivers the
bytes. -/
theorem exec_demod_of_runs {s : State} {S : List Sample} {d : DemRegs} {bytes : List Byte}
    (h : detectRuns s.cfg S S.length (Spec.demStart s.work.dem) = .ok d ())
    (hruns : d.runs = (bytes.flatMap Spec.bitsOf).map bitRun) (hne : ∃ x ∈ bytes, x ≠ 0xFF) :
    ∃ t, exec (.demod S) s = .next t ∧ t.err = 0 ∧ t.result = .demodulated bytes 0 := by
  obtain ⟨x, hx, hxne⟩ := hne
  have hmem : false ∈ bytes.flatMap Spec.bitsOf := List.mem_flatMap.mpr ⟨x, hx, false_mem_bitsOf hxne⟩
  have hpos : 0 < d.runs.length := by
    rw [hruns, List.length_map]
    exact List.length_pos_of_mem hmem
  have hbits : (classified d).bits = bytes.flatMap Spec.bitsOf :=
    (classified_bits_of_runs hruns).trans (classifiedBits_of_mem_false hmem)
  have hresidual : Fin.ofNat 8 (8 * bytes.length) = 0 := Fin.ext (Nat.mul_mod_right 8 _)
  rw [exec_demod, demodulate, ← Spec.demStart, h, Res.bind_ok, classify_of_pos hpos, Res.bind_ok, assembleBytes_eq,
    hbits, length_flatMap_bitsOf, Nat.mul_div_cancel_left _ (by decide), packBytes_flatMap_bitsOf, hresidual]
  exact ⟨_, rfl, s.deliver_err _ _, s.deliver_result _ _⟩

/-! ### The last byte before the gap -/

theorem bitsOf_eq (x : Byte) : Spec.bitsOf x =
    [x.getLsbD 0, x.getLsbD 1, x.getLsbD 2, x.getLsbD 3] ++ [x.getLsbD 4, x.getLsbD 5, x.getLsbD 6] ++
      [x.getLsbD 7] := rfl

/-- A byte from 0x20 up has a 1 among its bits 5, 6 and 7. -/
theorem high_bit_of_le {x : Byte} (h : 0x20 ≤ x.toNat) : (x.getLsbD 5 || x.getLsbD 6 || x.getLsbD 7) = true := by
  by_contra hnone
  simp only [Bool.or_eq_true, not_or, Bool.not_eq_true] at hnone
  obtain ⟨⟨h5, h6⟩, h7⟩ := hnone
  have hlt : x.toNat < 2 ^ 5 := Nat.lt_pow_two_of_testBit _ fun i hi => by
    rw [BitVec.testBit_toNat]
    by_cases hi8 : 8 ≤ i
    · exact BitVec.getLsbD_of_ge x i hi8
    · obtain rfl | rfl | rfl : i = 5 ∨ i = 6 ∨ i = 7 := by omega
      · exact h5
      · exact h6
      · exact h7
  omega

/-- Settles O55: the first part's bits end in the last byte's, one of whose last three is 1. -/
theorem demodCrossesGap : Obligations.DemodCrossesGap := by
  intro a b s front part2 last hcfg hlast hne
  obtain ⟨d, hdetect, hruns⟩ := detectRuns_two_parts a b s.work.dem
    (bits := front.flatMap Spec.bitsOf ++ [last.getLsbD 0, last.getLsbD 1, last.getLsbD 2, last.getLsbD 3])
    (part2.flatMap Spec.bitsOf) (gap := 24000) (by omega) (high_bit_of_le hlast) rfl
  have hbits : front.flatMap Spec.bitsOf ++
      [last.getLsbD 0, last.getLsbD 1, last.getLsbD 2, last.getLsbD 3] ++
        [last.getLsbD 4, last.getLsbD 5, last.getLsbD 6] ++ [last.getLsbD 7] =
      (front ++ [last]).flatMap Spec.bitsOf := by
    simp [bitsOf_eq last]
  rw [hbits] at hdetect hruns
  rw [hcfg, stream_default, stream_default, List.append_assoc]
  refine exec_demod_of_runs (hcfg ▸ hdetect) ?_ hne
  rw [hruns, ← List.flatMap_append, List.append_assoc]
  rfl

end Sys2Proof.Machine

/-! The audio round trip (spec/44_pipeline.md, R155 to R158) and the container boundary (spec/20_memory.md, R43), and
the obligations O58 to O60. -/

namespace Sys2Proof.Machine

/-! ### DECAUD where the image is recovered -/

/-- Where `DEMOD` recovers an image of the canonical shape, `DECAUD` delivers its header and the joined payloads. -/
theorem exec_decaud_image {a b : Addr} {s t : State} (hcfg : s.cfg = Config.defaultWith a b) {S : List Sample}
    {n m : Nat} {h : Vector Byte 15} {pieces : List (List Byte)} (hp : ∀ p ∈ pieces, 1 ≤ p.length ∧ p.length ≤ 255)
    (hdemod : exec (.demod S) s = .next t) (herr : t.err = 0)
    (hresult : t.result = .demodulated (Spec.image (Config.defaultWith a b) n h m pieces) 0) :
    ∃ u, exec (.decaud S) s = .next u ∧ u.err = 0 ∧ u.result = .program (parseNamefile h) pieces.flatten ∧
      u.work.mod = s.work.mod := by
  obtain ⟨t', ht', -, hcompose⟩ := decaudComposes s S
  cases hdemod.symm.trans ht'
  obtain ⟨bytes, residual, hbytes, hdecaud⟩ := hcompose herr
  cases hresult.symm.trans hbytes
  have hcfg' : t.cfg = Config.defaultWith a b := (operation_frame herr rfl hdemod).1.trans hcfg
  obtain ⟨u, hu, huerr, huresult, -⟩ := exec_disasm_image hcfg' n m h hp
  have hexec := hdecaud.trans hu
  exact ⟨u, hexec, huerr, huresult, (decaud_frame huerr hexec).1⟩

/-- An image holds bytes that are not 0xFF: the sync byte of its last block is one. -/
theorem exists_ne_in_image (a b : Addr) (n m : Nat) (h : Vector Byte 15) (pieces : List (List Byte)) :
    ∃ x ∈ Spec.image (Config.defaultWith a b) n h m pieces, x ≠ 0xFF :=
  ⟨0x3C, List.mem_append_right _ (List.mem_cons_of_mem _ List.mem_cons_self), by decide⟩

/-- Settles O58: the demodulator recovers the image's bytes, because they are not all 0xFF. -/
theorem decaudOfUngappedAudio : Obligations.DecaudOfUngappedAudio := by
  intro a b s n m h pieces hcfg hp
  obtain ⟨x, hx, hne⟩ := exists_ne_in_image a b n m h pieces
  obtain ⟨-, hrecover, -⟩ := demodRecoversStream a b s (Spec.image (Config.defaultWith a b) n h m pieces) hcfg
  obtain ⟨t, ht, herr, hresult⟩ := hrecover (List.ne_nil_of_mem hx) ⟨x, hx, hne⟩
  have hdecaud := exec_decaud_image hcfg hp ht herr hresult
  rw [← hcfg] at hdecaud
  exact hdecaud

/-! ### Through the gap -/

theorem gap_default (a b : Addr) : Spec.gap (Config.defaultWith a b) = List.replicate 24000 0 := by
  rw [← silenceSamples_gapSeconds, silenceSamples]
  exact congrArg (List.replicate · 0) (gapSamples_default a b)

/-- The first leader and the Namefile block of an assembled image, but for the block's trailer: 148 bytes. -/
def imageFront (a b : Addr) (h : Vector Byte 15) : List Byte :=
  List.replicate 128 0x55 ++ blockFront (Config.defaultWith a b) 0x00 h.toList [Spec.checksum 0x00 h.toList]

theorem length_imageFront (a b : Addr) (h : Vector Byte 15) : (imageFront a b h).length = 148 := by
  simp [imageFront, blockFront]

/-- `SPLIT_LEN` cuts an assembled image right after its Namefile block, whose last byte is the trailer 0x55. -/
theorem image_eq_imageFront_append (a b : Addr) (h : Vector Byte 15) (m : Nat) (pieces : List (List Byte)) :
    Spec.image (Config.defaultWith a b) 128 h m pieces = imageFront a b h ++ 0x55 ::
      (List.replicate m 0x55 ++ pieces.flatMap (Spec.block (Config.defaultWith a b) 0x01) ++
        Spec.block (Config.defaultWith a b) 0xFF []) := by
  simp [Spec.image, imageFront, blockFront, Spec.block, Spec.blockWithTrailer]

/-- Settles O59: the image is cut after a byte from 0x20 up, so the demodulator recovers it through the gap. -/
theorem decaudOfEncaudOfAsm : Obligations.DecaudOfEncaudOfAsm := by
  intro a b s name code hcfg
  obtain ⟨pieces, t, hflatten, hp, ht, -, himage⟩ := exec_asm_default hcfg name code
  set h := namefileVector (Config.defaultWith a b) name with hh
  obtain ⟨-, v, hv, -, hS⟩ := encaudOutcome s (Spec.image (Config.defaultWith a b) 128 h 128 pieces)
  obtain ⟨w, hw, -, hwresult, -⟩ := exec_disasm_image hcfg 128 128 h hp
  have hsplit := image_eq_imageFront_append a b h 128 pieces
  generalize List.replicate 128 0x55 ++ pieces.flatMap (Spec.block (Config.defaultWith a b) 0x01) ++
    Spec.block (Config.defaultWith a b) 0xFF [] = part2 at hsplit
  have hcut : s.cfg.splitLen = (imageFront a b h ++ [0x55]).length := by
    rw [hcfg, List.length_append, length_imageFront]
    rfl
  have hjoin : imageFront a b h ++ 0x55 :: part2 = (imageFront a b h ++ [0x55]) ++ part2 := by simp
  obtain ⟨t', ht', herr', hresult'⟩ := demodCrossesGap a b s (imageFront a b h) part2 0x55 hcfg (by decide)
    (hsplit ▸ exists_ne_in_image a b 128 128 h pieces)
  rw [← hsplit] at hresult'
  obtain ⟨u, hu, huerr, huresult, -⟩ := exec_decaud_image hcfg hp ht' herr' hresult'
  rw [hsplit, hjoin, hcut, List.take_left, List.drop_left, show Spec.gap s.cfg = _ by rw [hcfg, gap_default]] at hS
  refine ⟨t, _, v, _, u, w, ht, himage, hv, hS, hw, hu, huerr, huresult.trans hwresult.symm, ?_⟩
  rw [huresult, hh, parseNamefile_namefileVector, hflatten]

/-! ### The container boundary (R43) -/

theorem containerBytes_eq (v : Int) :
    containerBytes v = [BitVec.ofNat 8 ((v % 65536).toNat % 256), BitVec.ofNat 8 ((v % 65536).toNat / 256)] := by
  have hword : (BitVec.ofInt 16 v).toNat = (v % 65536).toNat := BitVec.toNat_ofInt v
  have hlo : (BitVec.ofInt 16 v).extractLsb' 0 8 = BitVec.ofNat 8 ((v % 65536).toNat % 256) :=
    BitVec.eq_of_toNat_eq (by simp [BitVec.extractLsb'_toNat, hword])
  have hhi : (BitVec.ofInt 16 v).extractLsb' 8 8 = BitVec.ofNat 8 ((v % 65536).toNat / 256) :=
    BitVec.eq_of_toNat_eq (by simp [BitVec.extractLsb'_toNat, hword, Nat.shiftRight_eq_div_pow])
  rw [containerBytes, hlo, hhi]

theorem toNat_append_bytes (hi lo : Byte) : (hi ++ lo : BitVec 16).toNat = hi.toNat * 256 + lo.toNat := by
  have happend : (hi ++ lo : BitVec 16).toNat = hi.toNat <<< 8 ||| lo.toNat := BitVec.toNat_append hi lo
  rw [happend, ← Nat.shiftLeft_add_eq_or_of_lt lo.isLt, Nat.shiftLeft_eq]

/-- Two bytes are read as the signed value of their 16-bit word. -/
theorem toInt_append_bytes (hi lo : Byte) : (hi ++ lo : BitVec 16).toInt =
    if hi.toNat < 128 then ((hi.toNat * 256 + lo.toNat : Nat) : Int)
    else ((hi.toNat * 256 + lo.toNat : Nat) : Int) - 65536 := by
  have hlo := lo.isLt
  rw [BitVec.toInt_eq_toNat_cond, toNat_append_bytes]
  split <;> split <;> omega

/-- A 16-bit value is the signed value of its two's complement word. -/
theorem toInt_word_of_inRange {v : Int} (hlow : -32768 ≤ v) (hhigh : v ≤ 32767) :
    (BitVec.ofNat 8 ((v % 65536).toNat / 256) ++ BitVec.ofNat 8 ((v % 65536).toNat % 256) : BitVec 16).toInt = v := by
  rw [toInt_append_bytes, BitVec.toNat_ofNat, BitVec.toNat_ofNat]
  split <;> omega

/-- Settles O60. -/
theorem containerRoundTrip : Obligations.ContainerRoundTrip := by
  refine ⟨fun v hv => ⟨containerBytes_eq v, ?_⟩, fun lo hi => toInt_append_bytes hi lo⟩
  obtain ⟨hlow, hhigh⟩ : (-32768 : Int) ≤ v ∧ v ≤ 32767 := by simpa [sampleInRange] using hv
  exact toInt_word_of_inRange hlow hhigh

end Sys2Proof.Machine
